-- ==== Sys2Proof/Word.lean ====
section
/-! DEFINITION. The word types of the machine (00_scope R10, R13). Nothing here is more than a name: every helper
that a test could show wrong stands in Decode.lean or under Machine/. -/

namespace Sys2Proof

/-- A register value, an address or an instruction word: 32 bits (R10, R13). -/
abbrev Word := BitVec 32

/-- One byte of memory. -/
abbrev Byte := BitVec 8

/-- The number of a visible general register, R0 to R15 (10_state R101). -/
abbrev RegIdx := Fin 16

end Sys2Proof
end

