-- ==== Sys2Proof/Config.lean ====
section
/-! DEFINITION. What the spec leaves open and the model does not choose: the free values of `draw()` (10_state R120). -/

namespace Sys2Proof

/-- The word that the `n`-th `draw()` of a run yields (10_state R120: "a free input of the step that is bound by no
law"). It has no body, so nothing can be proved of its value and every statement holds whatever it is.
DESIGN CHOICE (entry 8), safe. -/
opaque Config.draw : Nat → Word

end Sys2Proof
end

