-- ==== Sys2Proof/Syntax.lean ====
section
/-! DEFINITION. The instructions of the ARM-state core as data: one constructor of `Instr` per row of
spec/opcode_table.json (30_encoding R300 to R309). Every field a row names is kept, also the ones its rule ignores
(the Rn field of MOV, the Rd field of TST, the Rn field of MUL); should-be-zero and should-be-one fields are not kept
(R344; entry 20). -/

namespace Sys2Proof

/-- The condition of an instruction (40_dispatch R420). Code 0b1111 (NV) is no condition of an instruction here: the
decoder refuses such a word by name and the step faults (R421). -/
inductive Cond where
  | eq | ne | cs | cc | mi | pl | vs | vc | hi | ls | ge | lt | gt | le | al
deriving DecidableEq, Repr

/-- Shift type, instruction bits 6:5 (30_encoding R302). -/
inductive ShiftType where
  | lsl | lsr | asr | ror
deriving DecidableEq, Repr

/-- Operand 2 of data processing (30_encoding R330 to R332). -/
inductive Operand2 where
  /-- Rotated immediate: rotate field, 8-bit immediate. -/
  | imm (rot : BitVec 4) (imm8 : BitVec 8)
  /-- Register shifted by an immediate amount, 0 to 31. -/
  | shiftImm (rm : RegIdx) (ty : ShiftType) (amount : BitVec 5)
  /-- Register shifted by the low byte of a register. -/
  | shiftReg (rm : RegIdx) (ty : ShiftType) (rs : RegIdx)
deriving DecidableEq, Repr

/-- Offset of a single data transfer (30_encoding R333, 46_single R751). -/
inductive Offset where
  | imm (imm12 : BitVec 12)
  | reg (rm : RegIdx) (ty : ShiftType) (amount : BitVec 5)
deriving DecidableEq, Repr

/-- Offset of a halfword or signed transfer (30_encoding R334, 47_halfword R800). -/
inductive HalfOffset where
  | imm (imm8 : BitVec 8)
  | reg (rm : RegIdx)
deriving DecidableEq, Repr

/-- The PSR an MRS or MSR names, instruction bit 22 (30_encoding R302). -/
inductive PsrSel where
  | cpsr | spsr
deriving DecidableEq, Repr

/-- The bits of an MSR field mask that have an effect: bit 19 (f) the flags, bit 16 (c) the control byte (30_encoding
R337). -/
structure MsrFields where
  flags : Bool
  ctrl : Bool
deriving DecidableEq, Repr

/-- The families of the dispatch table (40_dispatch R402). -/
inductive Family where
  | multiply | multiplyLong | swap | branchExchange | halfword | undefinedGap | singleTransfer | blockTransfer
  | branch | coprocDataTransfer | coprocDataOperation | coprocRegisterTransfer | softwareInterrupt | mrs | msr
  | dataProcessing | fallback
deriving DecidableEq, Repr

/-- One instruction. The first argument is always the condition. -/
inductive Instr where
  -- multiply (30_encoding R303): S, Rd, Rn, Rs, Rm
  | mul (c : Cond) (sf : Bool) (rd rn rs rm : RegIdx)
  | mla (c : Cond) (sf : Bool) (rd rn rs rm : RegIdx)
  -- multiply-long (R303): S, RdHi, RdLo, Rs, Rm
  | umull (c : Cond) (sf : Bool) (rdHi rdLo rs rm : RegIdx)
  | umlal (c : Cond) (sf : Bool) (rdHi rdLo rs rm : RegIdx)
  | smull (c : Cond) (sf : Bool) (rdHi rdLo rs rm : RegIdx)
  | smlal (c : Cond) (sf : Bool) (rdHi rdLo rs rm : RegIdx)
  -- swap and branch-exchange (R304)
  | swp (c : Cond) (rn rd rm : RegIdx)
  | swpb (c : Cond) (rn rd rm : RegIdx)
  | bx (c : Cond) (rm : RegIdx)
  -- halfword and signed transfers (R305): P, U, W, Rn, Rd, offset
  | ldrh (c : Cond) (pre up wback : Bool) (rn rd : RegIdx) (off : HalfOffset)
  | strh (c : Cond) (pre up wback : Bool) (rn rd : RegIdx) (off : HalfOffset)
  | ldrsb (c : Cond) (pre up wback : Bool) (rn rd : RegIdx) (off : HalfOffset)
  | ldrsh (c : Cond) (pre up wback : Bool) (rn rd : RegIdx) (off : HalfOffset)
  /-- SH = 00 in the halfword space (47_halfword R804): P, U, I, W, L and the fields 19:16, 15:12, 11:8, 3:0. -/
  | undefHalfword (c : Cond) (pre up imm wback load : Bool) (rn rd : RegIdx) (hi lo : BitVec 4)
  /-- L = 0 with SH = 1x (47_halfword R805): P, U, I, W, H and the same fields. -/
  | undefSignedStore (c : Cond) (pre up imm wback h : Bool) (rn rd : RegIdx) (hi lo : BitVec 4)
  /-- The undefined gap (30_encoding R306, R316): bits 24:5 and bits 3:0. -/
  | undefGap (c : Cond) (hi : BitVec 20) (lo : BitVec 4)
  -- single data transfers (R306); the T forms have P = 0 and W = 1 (46_single R758)
  | ldrt (c : Cond) (up : Bool) (rn rd : RegIdx) (off : Offset)
  | strt (c : Cond) (up : Bool) (rn rd : RegIdx) (off : Offset)
  | ldrbt (c : Cond) (up : Bool) (rn rd : RegIdx) (off : Offset)
  | strbt (c : Cond) (up : Bool) (rn rd : RegIdx) (off : Offset)
  | ldr (c : Cond) (pre up wback : Bool) (rn rd : RegIdx) (off : Offset)
  | str (c : Cond) (pre up wback : Bool) (rn rd : RegIdx) (off : Offset)
  | ldrb (c : Cond) (pre up wback : Bool) (rn rd : RegIdx) (off : Offset)
  | strb (c : Cond) (pre up wback : Bool) (rn rd : RegIdx) (off : Offset)
  -- block data transfers (R307): P, U, W, Rn, register list
  | ldmRet (c : Cond) (pre up wback : Bool) (rn : RegIdx) (list : BitVec 16)
  | ldmUser (c : Cond) (pre up wback : Bool) (rn : RegIdx) (list : BitVec 16)
  | stmUser (c : Cond) (pre up wback : Bool) (rn : RegIdx) (list : BitVec 16)
  | ldmia (c : Cond) (wback : Bool) (rn : RegIdx) (list : BitVec 16)
  | ldmib (c : Cond) (wback : Bool) (rn : RegIdx) (list : BitVec 16)
  | ldmda (c : Cond) (wback : Bool) (rn : RegIdx) (list : BitVec 16)
  | ldmdb (c : Cond) (wback : Bool) (rn : RegIdx) (list : BitVec 16)
  | stmia (c : Cond) (wback : Bool) (rn : RegIdx) (list : BitVec 16)
  | stmib (c : Cond) (wback : Bool) (rn : RegIdx) (list : BitVec 16)
  | stmda (c : Cond) (wback : Bool) (rn : RegIdx) (list : BitVec 16)
  | stmdb (c : Cond) (wback : Bool) (rn : RegIdx) (list : BitVec 16)
  -- branches (R307)
  | b (c : Cond) (off : BitVec 24)
  | bl (c : Cond) (off : BitVec 24)
  -- coprocessor instructions (R308)
  | ldc (c : Cond) (pre up n wback : Bool) (rn : RegIdx) (crd cp : BitVec 4) (off : BitVec 8)
  | stc (c : Cond) (pre up n wback : Bool) (rn : RegIdx) (crd cp : BitVec 4) (off : BitVec 8)
  | cdp (c : Cond) (op1 crn crd cp : BitVec 4) (op2 : BitVec 3) (crm : BitVec 4)
  | mcr (c : Cond) (op1 : BitVec 3) (crn : BitVec 4) (rd : RegIdx) (cp : BitVec 4) (op2 : BitVec 3) (crm : BitVec 4)
  | mrc (c : Cond) (op1 : BitVec 3) (crn : BitVec 4) (rd : RegIdx) (cp : BitVec 4) (op2 : BitVec 3) (crm : BitVec 4)
  -- software interrupt (R309)
  | swi (c : Cond) (comment : BitVec 24)
  -- status transfer (R302); `ignored` holds bits 18 (s) and 17 (x) of the MSR field mask, which have no effect (R337)
  | mrs (c : Cond) (psr : PsrSel) (rd : RegIdx)
  | msrReg (c : Cond) (psr : PsrSel) (fields : MsrFields) (ignored : BitVec 2) (rm : RegIdx)
  | msrImm (c : Cond) (psr : PsrSel) (fields : MsrFields) (ignored : BitVec 2) (rot : BitVec 4) (imm8 : BitVec 8)
  /-- A test opcode with S = 0 that is no MRS or MSR (42_data R508): I, bits 22:21, Rn, Rd, bits 11:0. -/
  | undefTest (c : Cond) (imm : Bool) (op : BitVec 2) (rn rd : RegIdx) (rest : BitVec 12)
  -- data processing (R302): S, Rn, Rd, operand 2; the test opcodes have S = 1
  | and (c : Cond) (sf : Bool) (rn rd : RegIdx) (op2 : Operand2)
  | eor (c : Cond) (sf : Bool) (rn rd : RegIdx) (op2 : Operand2)
  | sub (c : Cond) (sf : Bool) (rn rd : RegIdx) (op2 : Operand2)
  | rsb (c : Cond) (sf : Bool) (rn rd : RegIdx) (op2 : Operand2)
  | add (c : Cond) (sf : Bool) (rn rd : RegIdx) (op2 : Operand2)
  | adc (c : Cond) (sf : Bool) (rn rd : RegIdx) (op2 : Operand2)
  | sbc (c : Cond) (sf : Bool) (rn rd : RegIdx) (op2 : Operand2)
  | rsc (c : Cond) (sf : Bool) (rn rd : RegIdx) (op2 : Operand2)
  | tst (c : Cond) (rn rd : RegIdx) (op2 : Operand2)
  | teq (c : Cond) (rn rd : RegIdx) (op2 : Operand2)
  | cmp (c : Cond) (rn rd : RegIdx) (op2 : Operand2)
  | cmn (c : Cond) (rn rd : RegIdx) (op2 : Operand2)
  | orr (c : Cond) (sf : Bool) (rn rd : RegIdx) (op2 : Operand2)
  | mov (c : Cond) (sf : Bool) (rn rd : RegIdx) (op2 : Operand2)
  | bic (c : Cond) (sf : Bool) (rn rd : RegIdx) (op2 : Operand2)
  | mvn (c : Cond) (sf : Bool) (rn rd : RegIdx) (op2 : Operand2)
  /-- The fallback entry (49_unimplemented R930). No word decodes to it (30_encoding R325). -/
  | fallback (c : Cond)
deriving DecidableEq, Repr

end Sys2Proof
end

