-- ==== Sys2Proof/WellFormed.lean ====
section
/-! DEFINITION. Which terms of `Instr` stand for a word of the instruction set: a Bool per constructor whose fields
are not free. Each check says which words an earlier row of the decode priority takes (30_encoding R310 to R325). -/

namespace Sys2Proof

/-- P = 0 with W = 1 is the T form of a single transfer, a row of its own (46_single R758, R760 to R763). -/
def plainIndexing (pre wback : Bool) : Bool := pre || !wback

/-- The SH = 00 words that multiply, multiply-long and swap leave (30_encoding R315, 47_halfword R804). -/
def leftBySwapAndMultiply (pre up imm wback load : Bool) : Bool :=
  if pre then up || wback || load else !up && imm

/-- The S = 0 test words that MRS, MSR, BX and the halfword space leave (30_encoding R322, 42_data R508). -/
def leftByStatusTransfer (imm : Bool) (op : BitVec 2) (rest : BitVec 12) : Bool :=
  if imm then !op.getLsbD 0
  else
    !(rest.getLsbD 7 && rest.getLsbD 4) && rest.extractLsb' 4 4 != 0#4 &&
      !(op == 1#2 && rest.extractLsb' 4 4 == 1#4)

/-- A term that some instruction word decodes to. -/
def Instr.wellFormed : Instr → Bool
  | .undefHalfword _ pre up imm wback load _ _ _ _ => leftBySwapAndMultiply pre up imm wback load
  | .undefTest _ imm op _ _ rest => leftByStatusTransfer imm op rest
  | .ldr _ pre _ wback _ _ _ => plainIndexing pre wback
  | .str _ pre _ wback _ _ _ => plainIndexing pre wback
  | .ldrb _ pre _ wback _ _ _ => plainIndexing pre wback
  | .strb _ pre _ wback _ _ _ => plainIndexing pre wback
  | .ldmRet _ _ _ _ _ list => list.getLsbD 15
  | .ldmUser _ _ _ _ _ list => !list.getLsbD 15
  | .fallback _ => false
  | .mul .. | .mla .. | .umull .. | .umlal .. | .smull .. | .smlal .. | .swp .. | .swpb .. | .bx .. | .ldrh ..
  | .strh .. | .ldrsb .. | .ldrsh .. | .undefSignedStore .. | .undefGap .. | .ldrt .. | .strt .. | .ldrbt ..
  | .strbt .. | .stmUser .. | .ldmia .. | .ldmib .. | .ldmda .. | .ldmdb .. | .stmia .. | .stmib .. | .stmda ..
  | .stmdb .. | .b .. | .bl .. | .ldc .. | .stc .. | .cdp .. | .mcr .. | .mrc .. | .swi .. | .mrs .. | .msrReg ..
  | .msrImm .. | .and .. | .eor .. | .sub .. | .rsb .. | .add .. | .adc .. | .sbc .. | .rsc .. | .tst .. | .teq ..
  | .cmp .. | .cmn .. | .orr .. | .mov .. | .bic .. | .mvn .. => true

end Sys2Proof
end

