-- ==== Sys2Proof/Decode.lean ====
section
/-! DEFINITION. The decoder and the encoder (30_encoding, 40_dispatch R400 to R403). The dispatch table is computed on
demand from the discriminant (R403): `familyOf` tries the patterns of R311 to R324 in the priority order of R310, the
first match wins, and each family reads the rest of the word. `encode` is written from the format tables R302 to R309,
not from the decoder. -/

namespace Sys2Proof

/-! ## Fields of a word -/

/-- `w[lo+len-1 : lo]` (00_scope R12). -/
def field (w : Word) (lo len : Nat) : BitVec len := w.extractLsb' lo len

/-- `w[i]` (00_scope R12). -/
def bitAt (w : Word) (i : Nat) : Bool := w.getLsbD i

/-- The register number in the four bits from `lo` (30_encoding R338). -/
def regAt (w : Word) (lo : Nat) : RegIdx := (field w lo 4).toFin

/-- `v` placed with its bit 0 at bit `lo`, zeros elsewhere. -/
def put {n : Nat} (lo : Nat) (v : BitVec n) : Word := v.setWidth 32 <<< lo

/-- A single bit placed at bit `lo`. -/
def putBit (lo : Nat) (b : Bool) : Word := put lo (BitVec.ofBool b)

/-- A register number placed at bits `lo+3 : lo`. -/
def putReg (lo : Nat) (r : RegIdx) : Word := put lo (BitVec.ofFin (w := 4) r)

/-- The four bytes of a word, lowest address first (20_memory R202: little-endian). -/
def wordBytes (v : Word) : List Byte :=
  [v.extractLsb' 0 8, v.extractLsb' 8 8, v.extractLsb' 16 8, v.extractLsb' 24 8]

/-- The word of four bytes, lowest address first (20_memory R202). -/
def bytesWord (b0 b1 b2 b3 : Byte) : Word := b3 ++ b2 ++ b1 ++ b0

/-! ## The dispatch table -/

/-- The discriminant `d = instr[27:20] : instr[7:4]` (40_dispatch R400). -/
def discriminant (w : Word) : BitVec 12 := field w 20 8 ++ field w 4 4

/-- One pattern test, `(d AND mask) == value` (30_encoding R310). -/
def hits (d mask value : BitVec 12) : Bool := (d &&& mask) == value

/-- The family of each of the 4096 entries of the dispatch table: the tests of 30_encoding R311 to R324 in the
priority order of R310. -/
def familyOf (d : BitVec 12) : Family :=
  if hits d 0xFCF#12 0x009#12 then .multiply
  else if hits d 0xF8F#12 0x089#12 then .multiplyLong
  else if hits d 0xFBF#12 0x109#12 then .swap
  else if hits d 0xFFF#12 0x121#12 then .branchExchange
  else if hits d 0xE09#12 0x009#12 then .halfword
  else if hits d 0xE01#12 0x601#12 then .undefinedGap
  else if hits d 0xC00#12 0x400#12 then .singleTransfer
  else if hits d 0xE00#12 0x800#12 then .blockTransfer
  else if hits d 0xE00#12 0xA00#12 then .branch
  else if hits d 0xE00#12 0xC00#12 then .coprocDataTransfer
  else if hits d 0xF01#12 0xE00#12 then .coprocDataOperation
  else if hits d 0xF01#12 0xE01#12 then .coprocRegisterTransfer
  else if hits d 0xF00#12 0xF00#12 then .softwareInterrupt
  else if hits d 0xFBF#12 0x100#12 then .mrs
  else if hits d 0xFBF#12 0x120#12 then .msr
  else if hits d 0xFB0#12 0x320#12 then .msr
  else if hits d 0xC00#12 0x000#12 then .dataProcessing
  else .fallback

/-! ## Field codes -/

/-- Shift type of bits 6:5 (30_encoding R302). -/
def shiftTypeOf (v : BitVec 2) : ShiftType :=
  match v.toNat with
  | 0 => .lsl
  | 1 => .lsr
  | 2 => .asr
  | _ => .ror

/-- Code of a shift type. -/
def ShiftType.code : ShiftType → BitVec 2
  | .lsl => 0#2
  | .lsr => 1#2
  | .asr => 2#2
  | .ror => 3#2

/-- Condition of bits 31:28 (40_dispatch R420); none for NV (R421). -/
def condOf (v : BitVec 4) : Option Cond :=
  match v.toNat with
  | 0 => some .eq
  | 1 => some .ne
  | 2 => some .cs
  | 3 => some .cc
  | 4 => some .mi
  | 5 => some .pl
  | 6 => some .vs
  | 7 => some .vc
  | 8 => some .hi
  | 9 => some .ls
  | 10 => some .ge
  | 11 => some .lt
  | 12 => some .gt
  | 13 => some .le
  | 14 => some .al
  | _ => none

/-- Code of a condition (40_dispatch R420). -/
def Cond.code : Cond → BitVec 4
  | .eq => 0#4
  | .ne => 1#4
  | .cs => 2#4
  | .cc => 3#4
  | .mi => 4#4
  | .pl => 5#4
  | .vs => 6#4
  | .vc => 7#4
  | .hi => 8#4
  | .ls => 9#4
  | .ge => 10#4
  | .lt => 11#4
  | .gt => 12#4
  | .le => 13#4
  | .al => 14#4

/-- PSR select of bit 22 (30_encoding R302). -/
def psrSelOf (r : Bool) : PsrSel := if r then .spsr else .cpsr

/-- Bit 22 of a PSR select. -/
def PsrSel.bit : PsrSel → Bool
  | .cpsr => false
  | .spsr => true

/-! ## Decoding, family by family -/

/-- Operand 2 of a data-processing word (30_encoding R330 to R332, 42_data R500). -/
def decodeOperand2 (w : Word) : Operand2 :=
  if bitAt w 25 then .imm (field w 8 4) (field w 0 8)
  else if bitAt w 4 then .shiftReg (regAt w 0) (shiftTypeOf (field w 5 2)) (regAt w 8)
  else .shiftImm (regAt w 0) (shiftTypeOf (field w 5 2)) (field w 7 5)

/-- Offset of a single-transfer word; I = 0 selects the immediate (30_encoding R306, R333). -/
def decodeOffset (w : Word) : Offset :=
  if bitAt w 25 then .reg (regAt w 0) (shiftTypeOf (field w 5 2)) (field w 7 5)
  else .imm (field w 0 12)

/-- Offset of a halfword word; I = 1 selects the split immediate (30_encoding R305, R334). -/
def decodeHalfOffset (w : Word) : HalfOffset :=
  if bitAt w 22 then .imm (field w 8 4 ++ field w 0 4) else .reg (regAt w 0)

/-- R311: A = bit 21, S = bit 20. -/
def decodeMultiply (c : Cond) (w : Word) : Instr :=
  if bitAt w 21 then .mla c (bitAt w 20) (regAt w 16) (regAt w 12) (regAt w 8) (regAt w 0)
  else .mul c (bitAt w 20) (regAt w 16) (regAt w 12) (regAt w 8) (regAt w 0)

/-- R312: U = bit 22 (1 signed), A = bit 21, S = bit 20. -/
def decodeMultiplyLong (c : Cond) (w : Word) : Instr :=
  match bitAt w 22, bitAt w 21 with
  | false, false => .umull c (bitAt w 20) (regAt w 16) (regAt w 12) (regAt w 8) (regAt w 0)
  | false, true => .umlal c (bitAt w 20) (regAt w 16) (regAt w 12) (regAt w 8) (regAt w 0)
  | true, false => .smull c (bitAt w 20) (regAt w 16) (regAt w 12) (regAt w 8) (regAt w 0)
  | true, true => .smlal c (bitAt w 20) (regAt w 16) (regAt w 12) (regAt w 8) (regAt w 0)

/-- R313: B = bit 22. -/
def decodeSwap (c : Cond) (w : Word) : Instr :=
  if bitAt w 22 then .swpb c (regAt w 16) (regAt w 12) (regAt w 0)
  else .swp c (regAt w 16) (regAt w 12) (regAt w 0)

/-- R315 and 47_halfword R804, R805: S = bit 6, H = bit 5, L = bit 20. -/
def decodeHalfword (c : Cond) (w : Word) : Instr :=
  match bitAt w 6, bitAt w 5, bitAt w 20 with
  | false, false, load =>
    .undefHalfword c (bitAt w 24) (bitAt w 23) (bitAt w 22) (bitAt w 21) load (regAt w 16) (regAt w 12)
      (field w 8 4) (field w 0 4)
  | false, true, true =>
    .ldrh c (bitAt w 24) (bitAt w 23) (bitAt w 21) (regAt w 16) (regAt w 12) (decodeHalfOffset w)
  | false, true, false =>
    .strh c (bitAt w 24) (bitAt w 23) (bitAt w 21) (regAt w 16) (regAt w 12) (decodeHalfOffset w)
  | true, false, true =>
    .ldrsb c (bitAt w 24) (bitAt w 23) (bitAt w 21) (regAt w 16) (regAt w 12) (decodeHalfOffset w)
  | true, true, true =>
    .ldrsh c (bitAt w 24) (bitAt w 23) (bitAt w 21) (regAt w 16) (regAt w 12) (decodeHalfOffset w)
  | true, h, false =>
    .undefSignedStore c (bitAt w 24) (bitAt w 23) (bitAt w 22) (bitAt w 21) h (regAt w 16) (regAt w 12)
      (field w 8 4) (field w 0 4)

/-- The rows of a single transfer with P = 0 and W = 1 (46_single R758, R764 to R767). -/
def decodeUserTransfer (c : Cond) (w : Word) : Instr :=
  match bitAt w 22, bitAt w 20 with
  | false, true => .ldrt c (bitAt w 23) (regAt w 16) (regAt w 12) (decodeOffset w)
  | false, false => .strt c (bitAt w 23) (regAt w 16) (regAt w 12) (decodeOffset w)
  | true, true => .ldrbt c (bitAt w 23) (regAt w 16) (regAt w 12) (decodeOffset w)
  | true, false => .strbt c (bitAt w 23) (regAt w 16) (regAt w 12) (decodeOffset w)

/-- R317: P = bit 24, U = bit 23, B = bit 22, W = bit 21, L = bit 20. -/
def decodeSingle (c : Cond) (w : Word) : Instr :=
  if !bitAt w 24 && bitAt w 21 then decodeUserTransfer c w
  else
    match bitAt w 22, bitAt w 20 with
    | false, true =>
      .ldr c (bitAt w 24) (bitAt w 23) (bitAt w 21) (regAt w 16) (regAt w 12) (decodeOffset w)
    | false, false =>
      .str c (bitAt w 24) (bitAt w 23) (bitAt w 21) (regAt w 16) (regAt w 12) (decodeOffset w)
    | true, true =>
      .ldrb c (bitAt w 24) (bitAt w 23) (bitAt w 21) (regAt w 16) (regAt w 12) (decodeOffset w)
    | true, false =>
      .strb c (bitAt w 24) (bitAt w 23) (bitAt w 21) (regAt w 16) (regAt w 12) (decodeOffset w)

/-- R318 with S = 0: P = bit 24, U = bit 23, W = bit 21, L = bit 20 (48_block R870 to R877). -/
def decodeBlockPlain (c : Cond) (w : Word) : Instr :=
  match bitAt w 20, bitAt w 24, bitAt w 23 with
  | true, false, true => .ldmia c (bitAt w 21) (regAt w 16) (field w 0 16)
  | true, true, true => .ldmib c (bitAt w 21) (regAt w 16) (field w 0 16)
  | true, false, false => .ldmda c (bitAt w 21) (regAt w 16) (field w 0 16)
  | true, true, false => .ldmdb c (bitAt w 21) (regAt w 16) (field w 0 16)
  | false, false, true => .stmia c (bitAt w 21) (regAt w 16) (field w 0 16)
  | false, true, true => .stmib c (bitAt w 21) (regAt w 16) (field w 0 16)
  | false, false, false => .stmda c (bitAt w 21) (regAt w 16) (field w 0 16)
  | false, true, false => .stmdb c (bitAt w 21) (regAt w 16) (field w 0 16)

/-- R318: S = bit 22 selects the user-bank and exception-return rows (48_block R878 to R880). -/
def decodeBlock (c : Cond) (w : Word) : Instr :=
  if bitAt w 22 then
    if bitAt w 20 then
      if bitAt w 15 then .ldmRet c (bitAt w 24) (bitAt w 23) (bitAt w 21) (regAt w 16) (field w 0 16)
      else .ldmUser c (bitAt w 24) (bitAt w 23) (bitAt w 21) (regAt w 16) (field w 0 16)
    else .stmUser c (bitAt w 24) (bitAt w 23) (bitAt w 21) (regAt w 16) (field w 0 16)
  else decodeBlockPlain c w

/-- R319: L = bit 24. -/
def decodeBranch (c : Cond) (w : Word) : Instr :=
  if bitAt w 24 then .bl c (field w 0 24) else .b c (field w 0 24)

/-- R320, data transfer: L = bit 20. -/
def decodeCoprocTransfer (c : Cond) (w : Word) : Instr :=
  if bitAt w 20 then
    .ldc c (bitAt w 24) (bitAt w 23) (bitAt w 22) (bitAt w 21) (regAt w 16) (field w 12 4) (field w 8 4) (field w 0 8)
  else
    .stc c (bitAt w 24) (bitAt w 23) (bitAt w 22) (bitAt w 21) (regAt w 16) (field w 12 4) (field w 8 4) (field w 0 8)

/-- R320, register transfer: L = bit 20. -/
def decodeCoprocRegister (c : Cond) (w : Word) : Instr :=
  if bitAt w 20 then
    .mrc c (field w 21 3) (field w 16 4) (regAt w 12) (field w 8 4) (field w 5 3) (field w 0 4)
  else
    .mcr c (field w 21 3) (field w 16 4) (regAt w 12) (field w 8 4) (field w 5 3) (field w 0 4)

/-- R322: R = bit 22, I = bit 25; the field mask is bits 19:16, of which 19 (f) and 16 (c) have an effect (R337). -/
def decodeMsr (c : Cond) (w : Word) : Instr :=
  if bitAt w 25 then
    .msrImm c (psrSelOf (bitAt w 22)) ⟨bitAt w 19, bitAt w 16⟩ (field w 17 2) (field w 8 4) (field w 0 8)
  else .msrReg c (psrSelOf (bitAt w 22)) ⟨bitAt w 19, bitAt w 16⟩ (field w 17 2) (regAt w 0)

/-- R323: opcode = bits 24:21, S = bit 20; a test opcode with S = 0 is undefined (42_data R508). -/
def decodeDataProcessing (c : Cond) (w : Word) : Instr :=
  match (field w 21 4).toNat, bitAt w 20 with
  | 0, s => .and c s (regAt w 16) (regAt w 12) (decodeOperand2 w)
  | 1, s => .eor c s (regAt w 16) (regAt w 12) (decodeOperand2 w)
  | 2, s => .sub c s (regAt w 16) (regAt w 12) (decodeOperand2 w)
  | 3, s => .rsb c s (regAt w 16) (regAt w 12) (decodeOperand2 w)
  | 4, s => .add c s (regAt w 16) (regAt w 12) (decodeOperand2 w)
  | 5, s => .adc c s (regAt w 16) (regAt w 12) (decodeOperand2 w)
  | 6, s => .sbc c s (regAt w 16) (regAt w 12) (decodeOperand2 w)
  | 7, s => .rsc c s (regAt w 16) (regAt w 12) (decodeOperand2 w)
  | 8, true => .tst c (regAt w 16) (regAt w 12) (decodeOperand2 w)
  | 9, true => .teq c (regAt w 16) (regAt w 12) (decodeOperand2 w)
  | 10, true => .cmp c (regAt w 16) (regAt w 12) (decodeOperand2 w)
  | 11, true => .cmn c (regAt w 16) (regAt w 12) (decodeOperand2 w)
  | 12, s => .orr c s (regAt w 16) (regAt w 12) (decodeOperand2 w)
  | 13, s => .mov c s (regAt w 16) (regAt w 12) (decodeOperand2 w)
  | 14, s => .bic c s (regAt w 16) (regAt w 12) (decodeOperand2 w)
  | 15, s => .mvn c s (regAt w 16) (regAt w 12) (decodeOperand2 w)
  | _, _ => .undefTest c (bitAt w 25) (field w 21 2) (regAt w 16) (regAt w 12) (field w 0 12)

/-- The instruction of a word of a given family (40_dispatch R430). -/
def decodeFamily (c : Cond) (w : Word) : Family → Instr
  | .multiply => decodeMultiply c w
  | .multiplyLong => decodeMultiplyLong c w
  | .swap => decodeSwap c w
  | .branchExchange => .bx c (regAt w 0)
  | .halfword => decodeHalfword c w
  | .undefinedGap => .undefGap c (field w 5 20) (field w 0 4)
  | .singleTransfer => decodeSingle c w
  | .blockTransfer => decodeBlock c w
  | .branch => decodeBranch c w
  | .coprocDataTransfer => decodeCoprocTransfer c w
  | .coprocDataOperation =>
    .cdp c (field w 20 4) (field w 16 4) (field w 12 4) (field w 8 4) (field w 5 3) (field w 0 4)
  | .coprocRegisterTransfer => decodeCoprocRegister c w
  | .softwareInterrupt => .swi c (field w 0 24)
  | .mrs => .mrs c (psrSelOf (bitAt w 22)) (regAt w 12)
  | .msr => decodeMsr c w
  | .dataProcessing => decodeDataProcessing c w
  | .fallback => .fallback c

/-- Why no instruction is decoded. -/
inductive DecodeError where
  /-- The condition field is 0b1111 (40_dispatch R421): the step faults Unpredictable. -/
  | conditionNv
  /-- Fewer than four bytes are left: no instruction is that short (30_encoding R300). -/
  | tooShort
deriving DecidableEq, Repr

/-- The instruction of a 32-bit word, or the refusal by name of condition NV (R421). -/
def decodeWord (w : Word) : Except DecodeError Instr :=
  match condOf (field w 28 4) with
  | none => .error .conditionNv
  | some c => .ok (decodeFamily c w (familyOf (discriminant w)))

/-- The first instruction of a list of bytes, lowest address first, and the bytes after it (30_encoding R300,
20_memory R202). -/
def decode : List Byte → Except DecodeError (Instr × List Byte)
  | b0 :: b1 :: b2 :: b3 :: rest =>
    match decodeWord (bytesWord b0 b1 b2 b3) with
    | .ok i => .ok (i, rest)
    | .error e => .error e
  | _ => .error .tooShort

/-- The 32-bit word of a row of spec/opcode_table.json: the low `nbits` bits of `w`, every bit above them 0. -/
def tableWord (nbits w : Nat) : Word := BitVec.ofNat 32 (w % 2 ^ nbits)

/-- The instruction the decoder reads from a word of spec/opcode_table.json, laid out in memory order. -/
def decodeTableWord (nbits w : Nat) : Option Instr :=
  match decode (wordBytes (tableWord nbits w)) with
  | .ok (i, _) => some i
  | .error _ => none

/-! ## Encoding -/

/-- Operand 2 with its I bit (30_encoding R302, R330 to R332). -/
def Operand2.bits : Operand2 → Word
  | .imm rot imm8 => putBit 25 true ||| put 8 rot ||| put 0 imm8
  | .shiftImm rm ty amount => put 7 amount ||| put 5 ty.code ||| putReg 0 rm
  | .shiftReg rm ty rs => putReg 8 rs ||| put 5 ty.code ||| putBit 4 true ||| putReg 0 rm

/-- A single-transfer offset with its I bit (30_encoding R306). -/
def Offset.bits : Offset → Word
  | .imm imm12 => put 0 imm12
  | .reg rm ty amount => putBit 25 true ||| put 7 amount ||| put 5 ty.code ||| putReg 0 rm

/-- A halfword offset with its I bit; bits 11:8 of the register form are SBZ (30_encoding R305). -/
def HalfOffset.bits : HalfOffset → Word
  | .imm imm8 => putBit 22 true ||| put 8 (imm8.extractLsb' 4 4) ||| put 0 (imm8.extractLsb' 0 4)
  | .reg rm => putReg 0 rm

/-- MUL and MLA (30_encoding R303). -/
def multiplyBits (a s : Bool) (rd rn rs rm : RegIdx) : Word :=
  putBit 21 a ||| putBit 20 s ||| putReg 16 rd ||| putReg 12 rn ||| putReg 8 rs ||| put 4 9#4 ||| putReg 0 rm

/-- The long multiplies (30_encoding R303). -/
def multiplyLongBits (u a s : Bool) (rdHi rdLo rs rm : RegIdx) : Word :=
  put 23 1#5 ||| putBit 22 u ||| multiplyBits a s rdHi rdLo rs rm

/-- SWP and SWPB (30_encoding R304). -/
def swapBits (byte : Bool) (rn rd rm : RegIdx) : Word :=
  put 23 2#5 ||| putBit 22 byte ||| putReg 16 rn ||| putReg 12 rd ||| put 4 9#4 ||| putReg 0 rm

/-- P, U, W and L of a transfer (30_encoding R305 to R307). -/
def indexBits (pre up wback load : Bool) : Word :=
  putBit 24 pre ||| putBit 23 up ||| putBit 21 wback ||| putBit 20 load

/-- Halfword and signed transfers (30_encoding R305). -/
def halfwordBits (pre up wback load s h : Bool) (rn rd : RegIdx) (off : HalfOffset) : Word :=
  indexBits pre up wback load ||| putReg 16 rn ||| putReg 12 rd ||| putBit 7 true ||| putBit 6 s ||| putBit 5 h |||
    putBit 4 true ||| off.bits

/-- The undefined words of the halfword space (30_encoding R305, R341). -/
def undefHalfwordBits (pre up imm wback load s h : Bool) (rn rd : RegIdx) (hi lo : BitVec 4) : Word :=
  indexBits pre up wback load ||| putBit 22 imm ||| putReg 16 rn ||| putReg 12 rd ||| put 8 hi ||| putBit 7 true |||
    putBit 6 s ||| putBit 5 h ||| putBit 4 true ||| put 0 lo

/-- Single data transfers (30_encoding R306). -/
def singleBits (pre up byte wback load : Bool) (rn rd : RegIdx) (off : Offset) : Word :=
  put 26 1#2 ||| indexBits pre up wback load ||| putBit 22 byte ||| putReg 16 rn ||| putReg 12 rd ||| off.bits

/-- Block data transfers (30_encoding R307). -/
def blockBits (pre up s wback load : Bool) (rn : RegIdx) (list : BitVec 16) : Word :=
  put 25 4#3 ||| indexBits pre up wback load ||| putBit 22 s ||| putReg 16 rn ||| put 0 list

/-- B and BL (30_encoding R307). -/
def branchBits (link : Bool) (off : BitVec 24) : Word := put 25 5#3 ||| putBit 24 link ||| put 0 off

/-- LDC and STC (30_encoding R308). -/
def coprocTransferBits (pre up n wback load : Bool) (rn : RegIdx) (crd cp : BitVec 4) (off : BitVec 8) : Word :=
  put 25 6#3 ||| indexBits pre up wback load ||| putBit 22 n ||| putReg 16 rn ||| put 12 crd ||| put 8 cp ||| put 0 off

/-- CDP (30_encoding R308). -/
def coprocOperationBits (op1 crn crd cp : BitVec 4) (op2 : BitVec 3) (crm : BitVec 4) : Word :=
  put 24 14#4 ||| put 20 op1 ||| put 16 crn ||| put 12 crd ||| put 8 cp ||| put 5 op2 ||| put 0 crm

/-- MCR and MRC (30_encoding R308). -/
def coprocRegisterBits (load : Bool) (op1 : BitVec 3) (crn : BitVec 4) (rd : RegIdx) (cp : BitVec 4) (op2 : BitVec 3)
    (crm : BitVec 4) : Word :=
  put 24 14#4 ||| put 21 op1 ||| putBit 20 load ||| put 16 crn ||| putReg 12 rd ||| put 8 cp ||| put 5 op2 |||
    putBit 4 true ||| put 0 crm

/-- The field mask and the SBO field of an MSR (30_encoding R302, R337). -/
def msrBits (psr : PsrSel) (fields : MsrFields) (ignored : BitVec 2) : Word :=
  put 23 2#2 ||| putBit 22 psr.bit ||| putBit 21 true ||| putBit 19 fields.flags ||| put 17 ignored |||
    putBit 16 fields.ctrl ||| put 12 15#4

/-- Data processing (30_encoding R302). -/
def dataProcessingBits (opcode : BitVec 4) (s : Bool) (rn rd : RegIdx) (op2 : Operand2) : Word :=
  put 21 opcode ||| putBit 20 s ||| putReg 16 rn ||| putReg 12 rd ||| op2.bits

/-- Bits 27:0 of an instruction. -/
def Instr.body : Instr → Word
  | .mul _ s rd rn rs rm => multiplyBits false s rd rn rs rm
  | .mla _ s rd rn rs rm => multiplyBits true s rd rn rs rm
  | .umull _ s rdHi rdLo rs rm => multiplyLongBits false false s rdHi rdLo rs rm
  | .umlal _ s rdHi rdLo rs rm => multiplyLongBits false true s rdHi rdLo rs rm
  | .smull _ s rdHi rdLo rs rm => multiplyLongBits true false s rdHi rdLo rs rm
  | .smlal _ s rdHi rdLo rs rm => multiplyLongBits true true s rdHi rdLo rs rm
  | .swp _ rn rd rm => swapBits false rn rd rm
  | .swpb _ rn rd rm => swapBits true rn rd rm
  | .bx _ rm => put 20 0x12#8 ||| put 8 0xFFF#12 ||| put 4 1#4 ||| putReg 0 rm
  | .ldrh _ pre up wback rn rd off => halfwordBits pre up wback true false true rn rd off
  | .strh _ pre up wback rn rd off => halfwordBits pre up wback false false true rn rd off
  | .ldrsb _ pre up wback rn rd off => halfwordBits pre up wback true true false rn rd off
  | .ldrsh _ pre up wback rn rd off => halfwordBits pre up wback true true true rn rd off
  | .undefHalfword _ pre up imm wback load rn rd hi lo =>
    undefHalfwordBits pre up imm wback load false false rn rd hi lo
  | .undefSignedStore _ pre up imm wback h rn rd hi lo =>
    undefHalfwordBits pre up imm wback false true h rn rd hi lo
  | .undefGap _ hi lo => put 25 3#3 ||| put 5 hi ||| putBit 4 true ||| put 0 lo
  | .ldrt _ up rn rd off => singleBits false up false true true rn rd off
  | .strt _ up rn rd off => singleBits false up false true false rn rd off
  | .ldrbt _ up rn rd off => singleBits false up true true true rn rd off
  | .strbt _ up rn rd off => singleBits false up true true false rn rd off
  | .ldr _ pre up wback rn rd off => singleBits pre up false wback true rn rd off
  | .str _ pre up wback rn rd off => singleBits pre up false wback false rn rd off
  | .ldrb _ pre up wback rn rd off => singleBits pre up true wback true rn rd off
  | .strb _ pre up wback rn rd off => singleBits pre up true wback false rn rd off
  | .ldmRet _ pre up wback rn list => blockBits pre up true wback true rn list
  | .ldmUser _ pre up wback rn list => blockBits pre up true wback true rn list
  | .stmUser _ pre up wback rn list => blockBits pre up true wback false rn list
  | .ldmia _ wback rn list => blockBits false true false wback true rn list
  | .ldmib _ wback rn list => blockBits true true false wback true rn list
  | .ldmda _ wback rn list => blockBits false false false wback true rn list
  | .ldmdb _ wback rn list => blockBits true false false wback true rn list
  | .stmia _ wback rn list => blockBits false true false wback false rn list
  | .stmib _ wback rn list => blockBits true true false wback false rn list
  | .stmda _ wback rn list => blockBits false false false wback false rn list
  | .stmdb _ wback rn list => blockBits true false false wback false rn list
  | .b _ off => branchBits false off
  | .bl _ off => branchBits true off
  | .ldc _ pre up n wback rn crd cp off => coprocTransferBits pre up n wback true rn crd cp off
  | .stc _ pre up n wback rn crd cp off => coprocTransferBits pre up n wback false rn crd cp off
  | .cdp _ op1 crn crd cp op2 crm => coprocOperationBits op1 crn crd cp op2 crm
  | .mcr _ op1 crn rd cp op2 crm => coprocRegisterBits false op1 crn rd cp op2 crm
  | .mrc _ op1 crn rd cp op2 crm => coprocRegisterBits true op1 crn rd cp op2 crm
  | .swi _ comment => put 24 15#4 ||| put 0 comment
  | .mrs _ psr rd => put 23 2#2 ||| putBit 22 psr.bit ||| put 16 15#4 ||| putReg 12 rd
  | .msrReg _ psr fields ignored rm => msrBits psr fields ignored ||| putReg 0 rm
  | .msrImm _ psr fields ignored rot imm8 => putBit 25 true ||| msrBits psr fields ignored ||| put 8 rot ||| put 0 imm8
  | .undefTest _ imm op rn rd rest =>
    putBit 25 imm ||| put 23 2#2 ||| put 21 op ||| putReg 16 rn ||| putReg 12 rd ||| put 0 rest
  | .and _ s rn rd op2 => dataProcessingBits 0#4 s rn rd op2
  | .eor _ s rn rd op2 => dataProcessingBits 1#4 s rn rd op2
  | .sub _ s rn rd op2 => dataProcessingBits 2#4 s rn rd op2
  | .rsb _ s rn rd op2 => dataProcessingBits 3#4 s rn rd op2
  | .add _ s rn rd op2 => dataProcessingBits 4#4 s rn rd op2
  | .adc _ s rn rd op2 => dataProcessingBits 5#4 s rn rd op2
  | .sbc _ s rn rd op2 => dataProcessingBits 6#4 s rn rd op2
  | .rsc _ s rn rd op2 => dataProcessingBits 7#4 s rn rd op2
  | .tst _ rn rd op2 => dataProcessingBits 8#4 true rn rd op2
  | .teq _ rn rd op2 => dataProcessingBits 9#4 true rn rd op2
  | .cmp _ rn rd op2 => dataProcessingBits 10#4 true rn rd op2
  | .cmn _ rn rd op2 => dataProcessingBits 11#4 true rn rd op2
  | .orr _ s rn rd op2 => dataProcessingBits 12#4 s rn rd op2
  | .mov _ s rn rd op2 => dataProcessingBits 13#4 s rn rd op2
  | .bic _ s rn rd op2 => dataProcessingBits 14#4 s rn rd op2
  | .mvn _ s rn rd op2 => dataProcessingBits 15#4 s rn rd op2
  | .fallback _ => 0#32

/-- The condition of an instruction. -/
def Instr.cond : Instr → Cond
  | .mul c .. | .mla c .. | .umull c .. | .umlal c .. | .smull c .. | .smlal c .. | .swp c .. | .swpb c .. | .bx c ..
  | .ldrh c .. | .strh c .. | .ldrsb c .. | .ldrsh c .. | .undefHalfword c .. | .undefSignedStore c ..
  | .undefGap c .. | .ldrt c .. | .strt c .. | .ldrbt c .. | .strbt c .. | .ldr c .. | .str c .. | .ldrb c ..
  | .strb c .. | .ldmRet c .. | .ldmUser c .. | .stmUser c .. | .ldmia c .. | .ldmib c .. | .ldmda c ..
  | .ldmdb c .. | .stmia c .. | .stmib c .. | .stmda c .. | .stmdb c .. | .b c .. | .bl c .. | .ldc c .. | .stc c ..
  | .cdp c .. | .mcr c .. | .mrc c .. | .swi c .. | .mrs c .. | .msrReg c .. | .msrImm c .. | .undefTest c ..
  | .and c .. | .eor c .. | .sub c .. | .rsb c .. | .add c .. | .adc c .. | .sbc c .. | .rsc c .. | .tst c ..
  | .teq c .. | .cmp c .. | .cmn c .. | .orr c .. | .mov c .. | .bic c .. | .mvn c .. | .fallback c => c

/-- The instruction word: the condition in bits 31:28 over the body (30_encoding R301). The fallback has no word; its
term is not well formed. -/
def encode (i : Instr) : Word := put 28 i.cond.code ||| i.body

end Sys2Proof
end

