-- ==== Sys2Proof/Machine/Launch.lean ====
section
/-! DEFINITION. The values the model names where the spec gives none for the launch of a run: what a byte nothing has
written reads as, what a general register holds after reset, and the setting of ARM_COMPLETION after reset. -/

namespace Sys2Proof.Machine

/-- What an address that memory does not list reads as. The spec leaves the launch image open (20_memory R201, R215:
`PLATFORM_MEMORY`). DESIGN CHOICE (entry 6), unsafe. -/
def unlistedByte : Byte := 0#8

/-- What a general register holds after reset; the spec leaves it unwritten (10_state R122).
DESIGN CHOICE (entry 2), unsafe. -/
def registerAtReset : Word := 0#32

/-- The setting of the parameter ARM_COMPLETION in `State.reset`: the default of 00_scope R9 and R11. The model covers
both settings; `State.resetWith` starts in either (entry 1). -/
def completionAtReset : Bool := false

end Sys2Proof.Machine
end

