-- ==== Sys2Proof/Machine/State.lean ====
section
/-! DEFINITION. The state of the processor as plain data (10_state R100), the reasons a step can stop (60_exceptions
R1010), and the state after reset (10_state R122, 70_reset R1101). -/

namespace Sys2Proof.Machine

/-- The seven processor modes (10_state R102). CPSR.M always holds one of them: MSR and the SPSR copy fault on any other
value (44_status R662, 60_exceptions R1070). -/
inductive Mode where
  | usr | fiq | irq | svc | abt | und | sys
deriving DecidableEq, Repr

/-- The condition flags of a PSR, bits 31:28 (10_state R106). -/
structure Flags where
  n : Bool
  z : Bool
  c : Bool
  v : Bool
deriving DecidableEq, Repr

/-- The CPSR (10_state R106). Bits 27:8 hold nothing: they read as `draw()` (entry 23). -/
structure Cpsr where
  flags : Flags
  i : Bool
  f : Bool
  t : Bool
  mode : Mode
deriving DecidableEq, Repr

/-- An SPSR stores two parts, the flags and the control byte (10_state R108); the control byte may hold any value
(44_status R663). -/
structure Spsr where
  flags : Flags
  control : BitVec 8
deriving DecidableEq, Repr

/-- The 30 physical general registers other than the pc, by bank (10_state R103). -/
structure Regs where
  /-- R0 to R7. -/
  low : Vector Word 8
  /-- R8_usr to R14_usr. -/
  usr : Vector Word 7
  /-- R8_fiq to R14_fiq. -/
  fiq : Vector Word 7
  /-- R13_irq, R14_irq. -/
  irq : Vector Word 2
  /-- R13_svc, R14_svc. -/
  svc : Vector Word 2
  /-- R13_abt, R14_abt. -/
  abt : Vector Word 2
  /-- R13_und, R14_und. -/
  und : Vector Word 2
deriving DecidableEq, Repr

/-- The name of a physical general register: its bank and its place in the bank (10_state R103). -/
inductive PhysReg where
  | low (k : Fin 8)
  | usr (k : Fin 7)
  | fiq (k : Fin 7)
  | irq (k : Fin 2)
  | svc (k : Fin 2)
  | abt (k : Fin 2)
  | und (k : Fin 2)
deriving DecidableEq, Repr

/-- Memory as (address, byte) pairs, addresses strictly rising, no pair holding what an unlisted address reads as
(20_memory R201). -/
abbrev Memory := List Host.Cell

/-- The instruction classes that fault Unimplemented without ARM_COMPLETION, each with the sub-parameters bound from its
discriminant (60_exceptions R1010 F1, R1011). -/
inductive UnimplementedClass where
  | multiplyLong (u a s : Bool)
  | swap (byte : Bool)
  | halfword (s h : Bool)
  | dataProcessing (opcode : BitVec 4) (s : Bool)
  | softwareInterrupt
  | coprocDataTransfer (load : Bool)
  | coprocDataOperation
  | coprocRegisterTransfer (load : Bool)
  | fallback
deriving DecidableEq, Repr

/-- What may hold no value, and what an UnwrittenRead names: a physical register, a flag of the CPSR, or a part of an SPSR
(10_state R121, 60_exceptions R1011). -/
inductive UnwrittenPart where
  | reg (p : PhysReg)
  | flagN | flagZ | flagC | flagV
  | spsrFlags (mode : Mode)
  | spsrControl (mode : Mode)
deriving DecidableEq, Repr

/-- The fault codes of 60_exceptions R1010, each carrying its `info` (R1011). All of them are the spec's own outcomes:
a fault of the model is a fault of the block, so each is safe. -/
inductive Fault where
  /-- F1. Raised by the classes the source leaves unimplemented when ARM_COMPLETION is false (R1010). Safe. -/
  | unimplemented (what : UnimplementedClass)
  /-- F2. Never raised: the undefined gap takes every such word (30_encoding R342). Safe. -/
  | invalidEncoding
  /-- F3. Raised by the undefined encodings when ARM_COMPLETION is false; holds the family that matched. Safe. -/
  | undefined (family : Family)
  /-- F4. Raised where ARM says UNPREDICTABLE and the source does not settle it; holds the number of the rule (entry 15).
  Safe. -/
  | unpredictable (rule : Nat)
  /-- F5. Raised by the exception-return forms when ARM_COMPLETION is false; holds the number of the rule. Safe. -/
  | notInSource (rule : Nat)
  /-- F6. Raised by an SPSR access in User or System mode; holds the mode. Safe. -/
  | noSpsr (mode : Mode)
  /-- F7. Raised by an instruction whose result depends on a part that the launch state leaves without a value (10_state
  R121, 40_dispatch R422); holds the part. Never raised in a run from `State.reset`, where every part holds a value
  (entry 5). Safe. -/
  | unwrittenRead (part : UnwrittenPart)
  /-- F8. Raised by a store into [pc+4, pc+12) (70_reset R1120); holds the first address written there. Safe. -/
  | selfModifyHazard (addr : Word)
  /-- F9. Raised by the instruction after a user-bank LDM that touches R8 to R14 (70_reset R1121); holds the register
  number. Safe. -/
  | ldmUserBankHazard (reg : RegIdx)
deriving DecidableEq, Repr

/-- A step to which the model gives no next state and which is no fault of the block. -/
inductive Refusal where
  /-- No meaning yet, by the mnemonic of spec/opcode_table.json; raised by an arm of exec only. No arm of this model
  does. Safe. -/
  | notModelled (mnemonic : String)
  /-- X1. Raised by step when CPSR.T = 1: Thumb decoding is out of scope (60_exceptions R1030, 00_scope R6). Safe. -/
  | thumbState
  /-- Raised by step on a state whose fault record is set: it has no further step (10_state R117, 60_exceptions R1004).
  Safe. -/
  | stopped
deriving DecidableEq, Repr

/-- The reason of a fault record: a fault, or the refusal ThumbState, which leaves a record too (60_exceptions R1030). -/
inductive StopReason where
  | fault (f : Fault)
  | thumbState
deriving DecidableEq, Repr

/-- The fault record of 60_exceptions R1001; `info` stands inside the fault (R1011). -/
structure FaultRecord where
  reason : StopReason
  /-- The instruction word; none for ThumbState (R1030). -/
  instr : Option Word
  /-- The address of the faulting instruction. -/
  pc : Word
deriving DecidableEq, Repr

/-- The processor's state (10_state R100). `armCompletion` is the parameter of 00_scope R9, an argument of the step that
no step changes; `draws` is the model's own counter of free values (10_state R120, entry 8). `unwritten` lists the parts
that hold no value (10_state R121): what their fields hold then is not seen by any step. -/
structure State where
  regs : Regs
  pc : Word
  cpsr : Cpsr
  spsrFiq : Spsr
  spsrIrq : Spsr
  spsrSvc : Spsr
  spsrAbt : Spsr
  spsrUnd : Spsr
  mem : Memory
  ldmUserHazard : Bool
  unwritten : List UnwrittenPart
  fault : Option FaultRecord
  armCompletion : Bool
  draws : Nat
deriving DecidableEq, Repr

/-- The three outcomes of a step (60_exceptions R1000). -/
abbrev Result := Host.Outcome State Fault Refusal

/-- Every register holds `registerAtReset` (entry 2). -/
def Regs.reset : Regs where
  low := Vector.replicate 8 registerAtReset
  usr := Vector.replicate 7 registerAtReset
  fiq := Vector.replicate 7 registerAtReset
  irq := Vector.replicate 2 registerAtReset
  svc := Vector.replicate 2 registerAtReset
  abt := Vector.replicate 2 registerAtReset
  und := Vector.replicate 2 registerAtReset

/-- The flags of a PSR after reset. DESIGN CHOICE (entries 3 and 4), unsafe. -/
def Flags.reset : Flags := ⟨false, false, false, false⟩

/-- An SPSR after reset. DESIGN CHOICE (entry 4), unsafe. -/
def Spsr.reset : Spsr := ⟨Flags.reset, 0#8⟩

/-- Supervisor mode, IRQ and FIQ masked, ARM state (10_state R122). -/
def Cpsr.reset : Cpsr := ⟨Flags.reset, true, true, false, .svc⟩

/-- The state after reset (10_state R122, 70_reset R1101), with an empty launch image (entry 6). Every register, flag and
SPSR holds a value (entries 2 to 5), so nothing is unwritten; `State.resetUnwritten` is the reset of R1101 as written. -/
def State.reset : State where
  regs := Regs.reset
  pc := 0#32
  cpsr := Cpsr.reset
  spsrFiq := Spsr.reset
  spsrIrq := Spsr.reset
  spsrSvc := Spsr.reset
  spsrAbt := Spsr.reset
  spsrUnd := Spsr.reset
  mem := []
  ldmUserHazard := false
  unwritten := []
  fault := none
  armCompletion := completionAtReset
  draws := 0

end Sys2Proof.Machine
end

