-- ==== Sys2Proof/Machine/Flags.lean ====
section
/-! DEFINITION. Every flag computation of the spec: the condition evaluator (40_dispatch R420), the add and subtract
helpers (42_data R502, R503), the logical flags (R505), the multiply flags (43_multiply R602, R616). -/

namespace Sys2Proof.Machine

/-- The condition evaluator (40_dispatch R420). -/
def condPass (c : Cond) (f : Flags) : Bool :=
  match c with
  | .eq => f.z
  | .ne => !f.z
  | .cs => f.c
  | .cc => !f.c
  | .mi => f.n
  | .pl => !f.n
  | .vs => f.v
  | .vc => !f.v
  | .hi => f.c && !f.z
  | .ls => !f.c || f.z
  | .ge => f.n == f.v
  | .lt => f.n != f.v
  | .gt => !f.z && f.n == f.v
  | .le => f.z || f.n != f.v
  | .al => true

/-- The flags a condition reads (40_dispatch R420, column "flags read"). -/
def condParts : Cond → List UnwrittenPart
  | .eq | .ne => [.flagZ]
  | .cs | .cc => [.flagC]
  | .mi | .pl => [.flagN]
  | .vs | .vc => [.flagV]
  | .hi | .ls => [.flagC, .flagZ]
  | .ge | .lt => [.flagN, .flagV]
  | .gt | .le => [.flagZ, .flagN, .flagV]
  | .al => []

/-- The four flags of the CPSR. -/
def flagParts : List UnwrittenPart := [.flagN, .flagZ, .flagC, .flagV]

/-- The three kinds of data-processing opcode by the flags they read and write (42_data R504, R505, R510 item 5). -/
inductive AluKind where
  /-- C is the shifter carry-out, V is kept. -/
  | logical
  /-- All four flags are written. -/
  | arithmetic
  /-- As arithmetic, and C is an operand. -/
  | carryIn
deriving DecidableEq, Repr

/-- The flags an opcode reads as an operand (42_data R510 item 5). -/
def AluKind.reads : AluKind → List UnwrittenPart
  | .logical | .arithmetic => []
  | .carryIn => [.flagC]

/-- The flags an opcode with S = 1 gives a value: a logical one leaves V, and C when the shifter keeps it, as they were
(42_data R505, 10_state R121). -/
def AluKind.gives (carryKept : Bool) : AluKind → List UnwrittenPart
  | .logical => if carryKept then [.flagN, .flagZ] else [.flagN, .flagZ, .flagC]
  | .arithmetic | .carryIn => flagParts

/-- The flags MUL and MLA with S = 1 give a value: V is kept (43_multiply R602). -/
def multiplyParts : List UnwrittenPart := [.flagN, .flagZ, .flagC]

/-- `AddWithFlags(a, b, cin)` (42_data R502): the exact sum, narrowed. -/
def addWithFlags (a b : Word) (cin : Bool) : Word × Flags :=
  let full := a.toNat + b.toNat + cin.toNat
  let result := BitVec.ofNat 32 full
  (result,
    { n := result.msb
      z := result == 0#32
      c := decide (2 ^ 32 ≤ full)
      v := a.msb == b.msb && result.msb != a.msb })

/-- `SubWithFlags(a, b)` is `AddWithFlags(a, NOT b, 1)` (42_data R503). -/
def subWithFlags (a b : Word) : Word × Flags := addWithFlags a (~~~b) true

/-- The logical flags of a result and a shifter carry-out; V is kept (42_data R505). -/
def logicalFlags (result : Word) (sc : Bool) (old : Flags) : Flags :=
  { n := result.msb, z := result == 0#32, c := sc, v := old.v }

/-- The flags of MUL and MLA with S = 1: C is a free value, V is kept (43_multiply R602). -/
def multiplyFlags (result : Word) (draw : Word) (old : Flags) : Flags :=
  { n := result.msb, z := result == 0#32, c := draw.getLsbD 0, v := old.v }

/-- The flags of a long multiply with S = 1: C and V are free values (43_multiply R616). -/
def multiplyLongFlags (result : BitVec 64) (draw : Word) : Flags :=
  { n := result.msb, z := result == 0#64, c := draw.getLsbD 0, v := draw.getLsbD 1 }

end Sys2Proof.Machine
end

