-- ==== Sys2Proof/Machine/Ops.lean ====
section
/-! DEFINITION. The named operations every meaning is written over: memory (20_memory), registers and banks (10_state
R103 to R105), status registers (R106 to R108), the program counter (R110 to R112, 40_dispatch R412), stores with the
self-modifying-code check (70_reset R1120), the guard every instruction passes (40_dispatch R410), and taking and
returning from an exception (60_exceptions R1061, R1070), and the marks of parts that hold no value (10_state R121). -/

namespace Sys2Proof.Machine

/-! ## Memory: one byte -/

/-- Addresses at least `lo`, strictly rising and below 2^32; no byte that an unlisted address reads as. -/
def memWfFrom : Nat → Memory → Bool
  | _, [] => true
  | lo, (k, v) :: rest => decide (lo ≤ k) && decide (k < 2 ^ 32) && v != unlistedByte && memWfFrom (k + 1) rest

/-- The canonical form of a memory. -/
def Memory.wf (m : Memory) : Bool := memWfFrom 0 m

/-- The byte at an address (20_memory R201: every byte holds a value). -/
def memGet : Memory → Nat → Byte
  | [], _ => unlistedByte
  | (k, v) :: rest, a => if k = a then v else memGet rest a

/-- A memory without the address `a`. -/
def memErase (m : Memory) (a : Nat) : Memory := m.filter fun cell => cell.1 != a

/-- A pair put before the first larger address. -/
def memInsert : Memory → Nat → Byte → Memory
  | [], a, b => [(a, b)]
  | (k, v) :: rest, a, b => if a < k then (a, b) :: (k, v) :: rest else (k, v) :: memInsert rest a b

/-- One byte written, keeping the canonical form. -/
def memSet (m : Memory) (a : Nat) (b : Byte) : Memory :=
  if b = unlistedByte then memErase m a else memInsert (memErase m a) a b

/-- `M[a]`. -/
def readByte (m : Memory) (a : Word) : Byte := memGet m a.toNat

/-- `MemWrite(a, 1, v)` (20_memory R204). -/
def writeByte (m : Memory) (a : Word) (b : Byte) : Memory := memSet m a.toNat b

/-! ## Memory: wider accesses, built in one place (20_memory R202 to R210) -/

/-- `MemRead(a, 2)`, little-endian, the address sums wrapping (R203). -/
def readHalf (m : Memory) (a : Word) : BitVec 16 := readByte m (a + 1#32) ++ readByte m a

/-- `MemRead(a, 4)` (R203). -/
def readWord (m : Memory) (a : Word) : Word :=
  bytesWord (readByte m a) (readByte m (a + 1#32)) (readByte m (a + 2#32)) (readByte m (a + 3#32))

/-- Bytes written from `a` upwards, the addresses wrapping (R204). -/
def writeBytes (m : Memory) (a : Word) : List Byte → Memory
  | [] => m
  | b :: rest => writeBytes (writeByte m a b) (a + 1#32) rest

/-- The two bytes of a halfword, lowest address first (R202). -/
def halfBytes (v : BitVec 16) : List Byte := [v.extractLsb' 0 8, v.extractLsb' 8 8]

/-- `a AND NOT 3`. -/
def alignWord (a : Word) : Word := a &&& ~~~3#32

/-- `a AND NOT 1`. -/
def alignHalf (a : Word) : Word := a &&& ~~~1#32

/-- `ROR(v, n)` for n at most 31 (00_scope R14). -/
def ror (v : Word) (n : Nat) : Word := v >>> n ||| v <<< (32 - n)

/-- `ReadRotate(a, 4)` (R206). -/
def readRotateWord (m : Memory) (a : Word) : Word :=
  ror (readWord m (alignWord a)) (8 * (a.extractLsb' 0 2).toNat)

/-- `ReadRotate(a, 2)` (R207). -/
def readRotateHalf (m : Memory) (a : Word) : Word :=
  ror ((readHalf m (alignHalf a)).setWidth 32) (8 * (a.extractLsb' 0 1).toNat)

/-- `zext_8(MemRead(a, 1))` (R205). -/
def readZeroByte (m : Memory) (a : Word) : Word := (readByte m a).setWidth 32

/-- `sext_8(MemRead(a, 1))` (R205). -/
def readSignedByte (m : Memory) (a : Word) : Word := (readByte m a).signExtend 32

/-- `ReadSignedHalf(a)`; at an odd address, the byte there (R210). -/
def readSignedHalf (m : Memory) (a : Word) : Word :=
  if a.getLsbD 0 then readSignedByte m a else (readHalf m a).signExtend 32

/-! ## General registers (10_state R103 to R105) -/

/-- The contents of a physical register. -/
def Regs.get (r : Regs) : PhysReg → Word
  | .low k => r.low.get k
  | .usr k => r.usr.get k
  | .fiq k => r.fiq.get k
  | .irq k => r.irq.get k
  | .svc k => r.svc.get k
  | .abt k => r.abt.get k
  | .und k => r.und.get k

/-- A physical register written. -/
def Regs.set (r : Regs) (p : PhysReg) (v : Word) : Regs :=
  match p with
  | .low k => { r with low := r.low.set k v }
  | .usr k => { r with usr := r.usr.set k v }
  | .fiq k => { r with fiq := r.fiq.set k v }
  | .irq k => { r with irq := r.irq.set k v }
  | .svc k => { r with svc := r.svc.set k v }
  | .abt k => { r with abt := r.abt.set k v }
  | .und k => { r with und := r.und.set k v }

/-- The physical register a mode's view maps a visible one to; none for R15, which is the pc (10_state R103). -/
def view (m : Mode) (r : RegIdx) : Option PhysReg :=
  if r.val < 8 then some (.low (Fin.ofNat 8 r.val))
  else if r.val = 15 then none
  else
    match m with
    | .usr | .sys => some (.usr (Fin.ofNat 7 (r.val - 8)))
    | .fiq => some (.fiq (Fin.ofNat 7 (r.val - 8)))
    | .irq => some (if r.val < 13 then .usr (Fin.ofNat 7 (r.val - 8)) else .irq (Fin.ofNat 2 (r.val - 13)))
    | .svc => some (if r.val < 13 then .usr (Fin.ofNat 7 (r.val - 8)) else .svc (Fin.ofNat 2 (r.val - 13)))
    | .abt => some (if r.val < 13 then .usr (Fin.ofNat 7 (r.val - 8)) else .abt (Fin.ofNat 2 (r.val - 13)))
    | .und => some (if r.val < 13 then .usr (Fin.ofNat 7 (r.val - 8)) else .und (Fin.ofNat 2 (r.val - 13)))

/-! ## Parts that hold no value (10_state R121) -/

/-- Parts given a value: a write takes their marks away, and leaves every other mark. -/
def give (parts : List UnwrittenPart) (s : State) : State :=
  { s with unwritten := s.unwritten.filter fun p => !parts.contains p }

/-- The check that an instruction depends on no part without a value; `parts` names what it reads (10_state R121). -/
def unwrittenChecks (parts : List UnwrittenPart) (s : State) : List (Bool × Fault) :=
  parts.map fun p => (s.unwritten.contains p, .unwrittenRead p)

/-- The physical register behind a visible one in a mode's view; none for R15, which is the pc and always holds a value. -/
def regPart (m : Mode) (r : RegIdx) : List UnwrittenPart := (view m r).toList.map .reg

/-- The physical registers behind visible ones in the current view. -/
def regParts (rs : List RegIdx) (s : State) : List UnwrittenPart := rs.flatMap (regPart s.cpsr.mode)

/-- The physical registers behind visible ones in the User view. -/
def userParts (rs : List RegIdx) : List UnwrittenPart := rs.flatMap (regPart .usr)

/-- The two parts of a mode's SPSR (10_state R108). -/
def spsrParts (m : Mode) : List UnwrittenPart := [.spsrFlags m, .spsrControl m]

/-- Every part that R1101 leaves unwritten: the registers of every bank, the flags and the SPSRs (70_reset R1101). -/
def allParts : List UnwrittenPart :=
  (List.finRange 8).map (fun k => .reg (.low k)) ++ (List.finRange 7).map (fun k => .reg (.usr k)) ++
    (List.finRange 7).map (fun k => .reg (.fiq k)) ++ (List.finRange 2).map (fun k => .reg (.irq k)) ++
    (List.finRange 2).map (fun k => .reg (.svc k)) ++ (List.finRange 2).map (fun k => .reg (.abt k)) ++
    (List.finRange 2).map (fun k => .reg (.und k)) ++ flagParts ++
    [Mode.fiq, .irq, .svc, .abt, .und].flatMap spsrParts

/-! ## Visible registers (10_state R104, R105) -/

/-- Register `r` in the view of mode `m`; R15 reads `pc + 8` (10_state R104, R110). -/
def readRegIn (m : Mode) (s : State) (r : RegIdx) : Word :=
  match view m r with
  | some p => s.regs.get p
  | none => s.pc + 8#32

/-- Register `r` written in the view of mode `m`. R15 is no register of a bank: it is written through `writePc` only
(10_state R104), so writing it here changes nothing, and no meaning does. -/
def writeRegIn (m : Mode) (r : RegIdx) (v : Word) (s : State) : State :=
  match view m r with
  | some p => give [.reg p] { s with regs := s.regs.set p v }
  | none => s

/-- `x[r]` (10_state R104). -/
def readReg (s : State) (r : RegIdx) : Word := readRegIn s.cpsr.mode s r

/-- `x[r] <- v` (10_state R104). -/
def writeReg (r : RegIdx) (v : Word) (s : State) : State := writeRegIn s.cpsr.mode r v s

/-- `xu[r]` (10_state R105). -/
def readUser (s : State) (r : RegIdx) : Word := readRegIn .usr s r

/-- `xu[r] <- v` (10_state R105). -/
def writeUser (r : RegIdx) (v : Word) (s : State) : State := writeRegIn .usr r v s

/-- The value stored for a register: R15 stores `pc + 12` (10_state R111). -/
def storeValue (s : State) (r : RegIdx) : Word := if r = 15 then s.pc + 12#32 else readReg s r

/-! ## Modes and status registers (10_state R102, R106 to R109) -/

/-- The encoding of a mode in CPSR.M (10_state R102). -/
def Mode.bits : Mode → BitVec 5
  | .usr => 0b10000#5
  | .fiq => 0b10001#5
  | .irq => 0b10010#5
  | .svc => 0b10011#5
  | .abt => 0b10111#5
  | .und => 0b11011#5
  | .sys => 0b11111#5

/-- The mode of five bits, none where they are no valid mode (10_state R102). -/
def modeOf (v : BitVec 5) : Option Mode :=
  match v.toNat with
  | 16 => some .usr
  | 17 => some .fiq
  | 18 => some .irq
  | 19 => some .svc
  | 23 => some .abt
  | 27 => some .und
  | 31 => some .sys
  | _ => none

/-- The six modes other than User are privileged (10_state R102). -/
def Mode.privileged (m : Mode) : Bool := m != .usr

/-- User and System have no SPSR (10_state R102, R108). -/
def Mode.hasSpsr (m : Mode) : Bool := m != .usr && m != .sys

/-- The control byte of the CPSR: I, F, T, M (10_state R106). -/
def controlByte (p : Cpsr) : BitVec 8 :=
  BitVec.ofBool p.i ++ BitVec.ofBool p.f ++ BitVec.ofBool p.t ++ p.mode.bits

/-- What an SPSR holds after the CPSR is saved into it (60_exceptions R1061). -/
def savedPsr (p : Cpsr) : Spsr := ⟨p.flags, controlByte p⟩

/-- A PSR as MRS reads it: flags, twenty drawn bits, control byte (44_status R650). -/
def psrWord (f : Flags) (control : BitVec 8) (draw : Word) : Word :=
  BitVec.ofBool f.n ++ BitVec.ofBool f.z ++ BitVec.ofBool f.c ++ BitVec.ofBool f.v ++ draw.extractLsb' 0 20 ++ control

/-- The SPSR of a mode (10_state R108). -/
def spsrOf (m : Mode) (s : State) : Option Spsr :=
  match m with
  | .usr | .sys => none
  | .fiq => some s.spsrFiq
  | .irq => some s.spsrIrq
  | .svc => some s.spsrSvc
  | .abt => some s.spsrAbt
  | .und => some s.spsrUnd

/-- The SPSR of a mode written; a mode without one has nothing to write. -/
def setSpsr (m : Mode) (p : Spsr) (s : State) : State :=
  match m with
  | .usr | .sys => s
  | .fiq => { s with spsrFiq := p }
  | .irq => { s with spsrIrq := p }
  | .svc => { s with spsrSvc := p }
  | .abt => { s with spsrAbt := p }
  | .und => { s with spsrUnd := p }

/-- The flags of the CPSR written; `parts` names those that get a value, the others are as they were. -/
def setFlags (parts : List UnwrittenPart) (f : Flags) (s : State) : State :=
  give parts { s with cpsr := { s.cpsr with flags := f } }

/-- The flags written when the instruction asks for it (S = 1). -/
def setFlagsIf (sf : Bool) (parts : List UnwrittenPart) (f : Flags) (s : State) : State :=
  if sf then setFlags parts f s else s

/-! ## Free values (10_state R120) -/

/-- The free value of this step. -/
def drawn (s : State) : Word := Config.draw s.draws

/-- The state whose next free value is another one. -/
def afterDraw (s : State) : State := { s with draws := s.draws + 1 }

/-! ## The program counter -/

/-- `Step()` (40_dispatch R412). -/
def stepPc (s : State) : State := { s with pc := s.pc + 4#32 }

/-- A value that ARM state cannot execute from (10_state R112). -/
def misaligned (v : Word) : Bool := v.extractLsb' 0 2 != 0#2

/-- `WritePC(v)` (10_state R112). -/
def writePc (v : Word) (s : State) : Result :=
  if misaligned v then .fault (.unpredictable 112) else .next { s with pc := v }

/-- A result written to a register: R15 through `WritePC` and without `Step()`, any other with `Step()`
(40_dispatch R414). -/
def writeResult (rd : RegIdx) (v : Word) (s : State) : Result :=
  if rd = 15 then writePc v s else .next (stepPc (writeReg rd v s))

/-! ## Fault checks -/

/-- The checks of a rule in their order: the first that holds is the fault, and none changes anything
(60_exceptions R1002, R1020). -/
def checked : List (Bool × Fault) → Result → Result
  | [], k => k
  | (holds, f) :: rest, k => if holds then .fault f else checked rest k

/-- R8 to R14, the registers of the hazard rule (70_reset R1121). -/
def hazardReg (r : RegIdx) : Bool := decide (8 ≤ r.val) && decide (r.val ≤ 14)

/-- The hazard bit cleared (40_dispatch R410). -/
def clearHazard (s : State) : State := { s with ldmUserHazard := false }

/-- What an instruction does once the flags of its condition hold values (40_dispatch R410, R413, 60_exceptions R1020 steps
6 and 7): a failed condition only steps; after a user-bank LDM, touching R8 to R14 faults. -/
def whenDecided (c : Cond) (touched : List RegIdx) (s : State) (run : State → Result) : Result :=
  if condPass c s.cpsr.flags then
    match s.ldmUserHazard, touched.find? hazardReg with
    | true, some r => .fault (.ldmUserBankHazard r)
    | _, _ => run (clearHazard s)
  else .next (stepPc (clearHazard s))

/-- What every instruction does before its own effect (40_dispatch R410, R422, 60_exceptions R1020 steps 5 to 7): a
condition that reads a flag without a value faults. -/
def whenPassed (c : Cond) (touched : List RegIdx) (s : State) (run : State → Result) : Result :=
  checked (unwrittenChecks (condParts c) s) (whenDecided c touched s run)

/-! ## Stores (20_memory R204, 70_reset R1120) -/

/-- A byte of the two words after the instruction at `pc`: `[pc + 4, pc + 12)` modulo 2^32 (70_reset R1120). -/
def prefetched (pc a : Word) : Bool := decide ((a - (pc + 4#32)).toNat < 8)

/-- The first of `n` bytes from `a` that is prefetched. -/
def firstPrefetched (pc a : Word) (n : Nat) : Option Word :=
  ((List.range n).map fun k => a + BitVec.ofNat 32 k).find? (prefetched pc)

/-- The first prefetched byte that a list of writes meets, in writing order. -/
def storeHit (pc : Word) (writes : List (Word × List Byte)) : Option Word :=
  writes.findSome? fun w => firstPrefetched pc w.1 w.2.length

/-- A list of writes done in order. -/
def storeAll (m : Memory) (writes : List (Word × List Byte)) : Memory :=
  writes.foldl (fun m w => writeBytes m w.1 w.2) m

/-- The writes of a store and then the rest of its effect, or the fault SelfModifyHazard before any of them. -/
def store (writes : List (Word × List Byte)) (s : State) (rest : State → State) : Result :=
  match storeHit s.pc writes with
  | some a => .fault (.selfModifyHazard a)
  | none => .next (rest { s with mem := storeAll s.mem writes })

/-! ## Exceptions (60_exceptions R1060 to R1072) -/

/-- The exceptions of the vector table (60_exceptions R1060). -/
inductive Exc where
  | reset | undefined | swi | prefetchAbort | dataAbort | irq | fiq
deriving DecidableEq, Repr

/-- The vector address (R1060). -/
def Exc.vector : Exc → Word
  | .reset => 0x00#32
  | .undefined => 0x04#32
  | .swi => 0x08#32
  | .prefetchAbort => 0x0C#32
  | .dataAbort => 0x10#32
  | .irq => 0x18#32
  | .fiq => 0x1C#32

/-- The mode entered (R1060). -/
def Exc.mode : Exc → Mode
  | .reset => .svc
  | .undefined => .und
  | .swi => .svc
  | .prefetchAbort => .abt
  | .dataAbort => .abt
  | .irq => .irq
  | .fiq => .fiq

/-- Reset and FIQ mask FIQ too (R1060, R1061). -/
def Exc.masksFiq (e : Exc) : Bool := e == .reset || e == .fiq

/-- Priority of simultaneous exceptions, 0 highest (R1064). -/
def Exc.priority : Exc → Nat
  | .reset => 0
  | .dataAbort => 1
  | .fiq => 2
  | .irq => 3
  | .prefetchAbort => 4
  | .undefined => 5
  | .swi => 5

/-- The mark an SPSR takes over from the flags saved into it: its flags are one part, without a value when one of the four
flags has none (60_exceptions R1061: "unwritten parts stay unwritten"; entry 28). -/
def savedMarks (m : Mode) (s : State) : List UnwrittenPart :=
  if flagParts.any s.unwritten.contains then [.spsrFlags m] else []

/-- `Enter(exc, ret)` (60_exceptions R1061): R14 and SPSR of the mode entered save the return address and the CPSR, the
mode, T, I and F change, and the pc goes to the vector. -/
def enterException (e : Exc) (ret : Word) (s : State) : State :=
  let banked := give (spsrParts e.mode) (setSpsr e.mode (savedPsr s.cpsr) (writeRegIn e.mode 14 ret s))
  { banked with
    unwritten := savedMarks e.mode s ++ banked.unwritten
    cpsr := { flags := s.cpsr.flags, i := true, f := s.cpsr.f || e.masksFiq, t := false, mode := e.mode }
    pc := e.vector }

/-- The CPSR that a saved status restores, none where its mode bits are no valid mode (60_exceptions R1070). -/
def restoredPsr (p : Spsr) : Option Cpsr :=
  match modeOf (p.control.extractLsb' 0 5) with
  | none => none
  | some m =>
    some { flags := p.flags, i := p.control.getLsbD 7, f := p.control.getLsbD 6, t := p.control.getLsbD 5, mode := m }

/-- The copy of a saved status into CPSR (60_exceptions R1070), which gives all four flags a value, and then the pc, by
`WritePC` when the new T is 0, with bit 0 cleared when it is 1 (42_data R541, 48_block R880). -/
def resumeAt (target : Word) (p : Spsr) (s : State) : Result :=
  match restoredPsr p with
  | none => .fault (.unpredictable 1070)
  | some cpsr =>
    if cpsr.t then .next (give flagParts { s with cpsr := cpsr, pc := target &&& ~~~1#32 })
    else writePc target (give flagParts { s with cpsr := cpsr })

/-- Return from an exception to `target` (42_data R541, 48_block R880): the current SPSR must exist and hold a value
(60_exceptions R1070). -/
def exceptionReturn (target : Word) (s : State) : Result :=
  match spsrOf s.cpsr.mode s with
  | none => .fault (.noSpsr s.cpsr.mode)
  | some p => checked (unwrittenChecks (spsrParts s.cpsr.mode) s) (resumeAt target p s)

/-- A synchronous exception is taken by the instruction that causes it, with `ret = pc + 4` (60_exceptions R1062). -/
def takeSynchronous (e : Exc) (s : State) : Result := .next (enterException e (s.pc + 4#32) s)

/-- An undefined encoding: the fault Undefined, or under ARM_COMPLETION the undefined-instruction exception
(49_unimplemented R920, R921). -/
def undefinedEncoding (family : Family) (s : State) : Result :=
  if s.armCompletion then takeSynchronous .undefined s else .fault (.undefined family)

/-- A class the source leaves unimplemented whose completion is the undefined-instruction exception (49_unimplemented
R915, R930). -/
def unimplementedOrTrap (what : UnimplementedClass) (e : Exc) (s : State) : Result :=
  if s.armCompletion then takeSynchronous e s else .fault (.unimplemented what)

/-- The check that a class the source leaves unimplemented has its completion (60_exceptions R1010 F1). -/
def unimplementedCheck (what : UnimplementedClass) (s : State) : Bool × Fault :=
  (!s.armCompletion, .unimplemented what)

/-! ## Interrupts of an outer model (60_exceptions R1063)

R1063 speaks of an entry "between two steps" and does not say whether it applies to a state that has no next step, one
with a fault record or in Thumb state. The model applies it there too, and the record stays. DESIGN CHOICE (entry 18). -/

/-- IRQ entry between two steps, taken only while CPSR.I = 0 and with ARM_COMPLETION (R1063), in any state (DESIGN CHOICE,
entry 18). -/
def State.takeIrq (s : State) : State :=
  if s.armCompletion && !s.cpsr.i then enterException .irq (s.pc + 4#32) s else s

/-- FIQ entry between two steps, taken only while CPSR.F = 0 and with ARM_COMPLETION (R1063), in any state (DESIGN CHOICE,
entry 18). -/
def State.takeFiq (s : State) : State :=
  if s.armCompletion && !s.cpsr.f then enterException .fiq (s.pc + 4#32) s else s

/-- The interrupt an outer model delivers between two steps when its lines are asserted: FIQ before IRQ (R1063, R1064).
`step` never calls it: the block has no interrupt input (R1050). A state with a fault record or in Thumb state is no
exception: the entry changes pc, R14, SPSR and CPSR there too and keeps the record. DESIGN CHOICE (entry 18). -/
def State.deliver (irqLine fiqLine : Bool) (s : State) : State :=
  if fiqLine && !s.cpsr.f then s.takeFiq else if irqLine then s.takeIrq else s

/-- Reset applied by the host with a launch image, in a chosen setting of the parameter ARM_COMPLETION (70_reset R1100,
R1101; 00_scope R11: the parameter is no part of the state that reset replaces). -/
def State.resetWith (completion : Bool) (image : Memory) : State :=
  { State.reset with mem := image, armCompletion := completion }

/-- Reset as 70_reset R1101 says it: no general register, flag or SPSR part holds a value. Reading one faults UnwrittenRead
until it is written (10_state R121). -/
def State.resetUnwritten (completion : Bool) (image : Memory) : State :=
  { State.resetWith completion image with unwritten := allParts }

end Sys2Proof.Machine
end

