-- ==== Sys2Proof/Machine/Operands.lean ====
section
/-! DEFINITION. Every operand form: the barrel shifter (41_shifter R450 to R453), the offsets and addresses of single and
halfword transfers (46_single R750 to R752, 47_halfword R800, R801), the register list and slot addresses of block
transfers (48_block R850, R851), the branch target (30_encoding R335). -/

namespace Sys2Proof.Machine

/-! ## The barrel shifter -/

/-- Operand 2 and the shifter carry-out `sc` (41_shifter R450). -/
structure Shifted where
  value : Word
  carry : Bool
deriving DecidableEq, Repr

/-- `ASR(v, n)` for n at most 31 (00_scope R14). -/
def asr (v : Word) (n : Nat) : Word := v.sshiftRight n

/-- All bits equal to bit 31: what ASR by 32 or more leaves (41_shifter R452, R453). -/
def signFill (v : Word) : Word := if v.msb then 0xFFFFFFFF#32 else 0#32

/-- Rotated immediate value: `ROR(zext_8(imm8), 2*rot)` (30_encoding R330). -/
def rotatedImm (rot : BitVec 4) (imm8 : BitVec 8) : Word := ror (imm8.setWidth 32) (2 * rot.toNat)

/-- Rotated immediate; rotate 0 keeps the carry (41_shifter R451). -/
def shiftRotatedImm (rot : BitVec 4) (imm8 : BitVec 8) (c : Bool) : Shifted :=
  if rot = 0#4 then ⟨imm8.setWidth 32, c⟩ else ⟨rotatedImm rot imm8, (rotatedImm rot imm8).msb⟩

/-- Shift by 1 to 31, the same in the immediate and the register form (41_shifter R452, R453). -/
def shiftBy (ty : ShiftType) (v : Word) (n : Nat) : Shifted :=
  match ty with
  | .lsl => ⟨v <<< n, v.getLsbD (32 - n)⟩
  | .lsr => ⟨v >>> n, v.getLsbD (n - 1)⟩
  | .asr => ⟨asr v n, v.getLsbD (n - 1)⟩
  | .ror => ⟨ror v n, v.getLsbD (n - 1)⟩

/-- Register shifted by an immediate amount; the four amount-0 meanings (41_shifter R452). -/
def shiftByImm (ty : ShiftType) (v : Word) (n : Nat) (c : Bool) : Shifted :=
  if n = 0 then
    match ty with
    | .lsl => ⟨v, c⟩
    | .lsr => ⟨0#32, v.msb⟩
    | .asr => ⟨signFill v, v.msb⟩
    | .ror => ⟨v >>> 1 ||| put 31 (BitVec.ofBool c), v.getLsbD 0⟩
  else shiftBy ty v n

/-- Register shifted by a register amount, 0 to 255 (41_shifter R453). -/
def shiftByReg (ty : ShiftType) (v : Word) (n : Nat) (c : Bool) : Shifted :=
  if n = 0 then ⟨v, c⟩
  else if n < 32 then shiftBy ty v n
  else
    match ty with
    | .lsl => ⟨0#32, n == 32 && v.getLsbD 0⟩
    | .lsr => ⟨0#32, n == 32 && v.msb⟩
    | .asr => ⟨signFill v, v.msb⟩
    | .ror => if n % 32 = 0 then ⟨v, v.msb⟩ else shiftBy .ror v (n % 32)

/-- The amount a register gives: its low byte (41_shifter R453). -/
def regAmount (v : Word) : Nat := (v.extractLsb' 0 8).toNat

/-- `Shift(...)` (41_shifter R450, 42_data R500). -/
def shiftOperand (op2 : Operand2) (s : State) : Shifted :=
  match op2 with
  | .imm rot imm8 => shiftRotatedImm rot imm8 s.cpsr.flags.c
  | .shiftImm rm ty amount => shiftByImm ty (readReg s rm) amount.toNat s.cpsr.flags.c
  | .shiftReg rm ty rs => shiftByReg ty (readReg s rm) (regAmount (readReg s rs)) s.cpsr.flags.c

/-- The registers operand 2 touches (70_reset R1121). -/
def operand2Regs : Operand2 → List RegIdx
  | .imm _ _ => []
  | .shiftImm rm _ _ => [rm]
  | .shiftReg rm _ rs => [rm, rs]

/-- Whether operand 2 reads C as an operand: the rotate through carry does (41_shifter R452). -/
def readsCarry : ShiftType → BitVec 5 → Bool
  | .ror, amount => amount == 0#5
  | _, _ => false

/-- What operand 2 reads (42_data R510 item 5, 41_shifter R461). -/
def operand2Parts (op2 : Operand2) (s : State) : List UnwrittenPart :=
  match op2 with
  | .imm _ _ => []
  | .shiftImm rm ty amount => regParts [rm] s ++ if readsCarry ty amount then [.flagC] else []
  | .shiftReg rm _ rs => regParts [rm, rs] s

/-- Whether the shifter carry-out is "C unchanged" (41_shifter R451 to R453): then a logical opcode leaves C as it was,
with or without a value (10_state R121). -/
def carryKept (op2 : Operand2) (s : State) : Bool :=
  match op2 with
  | .imm rot _ => rot == 0#4
  | .shiftImm _ ty amount => ty == .lsl && amount == 0#5
  | .shiftReg _ _ rs => regAmount (readReg s rs) == 0

/-- The registers a test opcode with S = 0 touches: Rn, and with I = 0 Rm, and Rs when bit 4 is set, as the row "data
processing" of 70_reset R1121 says. DEDUCED (entry 27). -/
def undefTestRegs (imm : Bool) (rn : RegIdx) (rest : BitVec 12) : List RegIdx :=
  if imm then [rn]
  else if rest.getLsbD 4 then [rn, (rest.extractLsb' 0 4).toFin, (rest.extractLsb' 8 4).toFin]
  else [rn, (rest.extractLsb' 0 4).toFin]

/-- R15 among the registers of a register-specified shift: Rm, Rs, or one of the instruction's other register fields: Rn,
and Rd where the opcode writes a result (41_shifter R460; entry 12). -/
def pcInRegShift (others : List RegIdx) : Operand2 → Bool
  | .shiftReg rm _ rs => (rm :: rs :: others).contains 15
  | _ => false

/-! ## Addresses of single and halfword transfers -/

/-- An offset's value; the shifter carry-out is discarded (46_single R751). -/
def offsetValue (off : Offset) (s : State) : Word :=
  match off with
  | .imm imm12 => imm12.setWidth 32
  | .reg rm ty amount => (shiftByImm ty (readReg s rm) amount.toNat s.cpsr.flags.c).value

/-- The registers an offset touches (70_reset R1121). -/
def offsetRegs : Offset → List RegIdx
  | .imm _ => []
  | .reg rm _ _ => [rm]

/-- What an offset reads (46_single R753 item 3). -/
def offsetParts (off : Offset) (s : State) : List UnwrittenPart :=
  match off with
  | .imm _ => []
  | .reg rm ty amount => regParts [rm] s ++ if readsCarry ty amount then [.flagC] else []

/-- A halfword offset's value; a register offset is not shifted (47_halfword R800). -/
def halfOffsetValue (off : HalfOffset) (s : State) : Word :=
  match off with
  | .imm imm8 => imm8.setWidth 32
  | .reg rm => readReg s rm

/-- The registers a halfword offset touches (70_reset R1121). -/
def halfOffsetRegs : HalfOffset → List RegIdx
  | .imm _ => []
  | .reg rm => [rm]

/-- The registers an undefined word of the halfword space touches: Rn, Rd, and Rm with I = 0, as the row "halfword and
single transfers" of 70_reset R1121 says. DEDUCED (entry 27). -/
def undefHalfwordRegs (imm : Bool) (rn rd : RegIdx) (lo : BitVec 4) : List RegIdx :=
  if imm then [rn, rd] else [rn, rd, lo.toFin]

/-- The effective address, the writeback value and whether writeback happens (46_single R752). -/
structure Indexed where
  addr : Word
  moved : Word
  wb : Bool
deriving DecidableEq, Repr

/-- `moved`, `addr` and `wb` from P, U, W, the base and the offset (46_single R752, 47_halfword R801). -/
def indexed (pre up wback : Bool) (base offset : Word) : Indexed :=
  let moved := if up then base + offset else base - offset
  { addr := if pre then moved else base, moved := moved, wb := !pre || wback }

/-- The address of a single transfer in a state (46_single R750 to R752). -/
def singleAddress (pre up wback : Bool) (rn : RegIdx) (off : Offset) (s : State) : Indexed :=
  indexed pre up wback (readReg s rn) (offsetValue off s)

/-- The address of a halfword transfer in a state (47_halfword R800, R801). -/
def halfwordAddress (pre up wback : Bool) (rn : RegIdx) (off : HalfOffset) (s : State) : Indexed :=
  indexed pre up wback (readReg s rn) (halfOffsetValue off s)

/-! ## Block transfers -/

/-- The effective list E, ascending; an empty list is R15 alone (48_block R850, R853). -/
def listRegs (list : BitVec 16) : List RegIdx :=
  if list = 0#16 then [15] else (List.finRange 16).filter fun r => list.getLsbD r.val

/-- The registers whose bits are set, the ones an instruction's list names (70_reset R1121). -/
def namedRegs (list : BitVec 16) : List RegIdx := (List.finRange 16).filter fun r => list.getLsbD r.val

/-- `span`: four bytes a register, 64 for the empty list (48_block R851). -/
def listSpan (list : BitVec 16) : Word :=
  if list = 0#16 then 64#32 else BitVec.ofNat 32 (4 * (namedRegs list).length)

/-- The start address by P and U (48_block R851). -/
def blockStart (pre up : Bool) (base span : Word) : Word :=
  match pre, up with
  | false, true => base
  | true, true => base + 4#32
  | false, false => base - span + 4#32
  | true, false => base - span

/-- The final base value by U (48_block R851). -/
def blockFinal (up : Bool) (base span : Word) : Word := if up then base + span else base - span

/-- The k-th slot of a block, forced aligned (48_block R851, 20_memory R211). -/
def blockSlot (start : Word) (k : Nat) : Word := alignWord (start + BitVec.ofNat 32 (4 * k))

/-! ## Branches -/

/-- `pc + 8 + sext_26(off : 00)` (30_encoding R335, 45_branch R700). -/
def branchTarget (off : BitVec 24) (s : State) : Word :=
  s.pc + 8#32 + (off ++ 0#2 : BitVec 26).signExtend 32

end Sys2Proof.Machine
end

