-- ==== Sys2Proof/Machine/Block.lean ====
section
/-! DEFINITION. Block data transfers (48_block R850 to R880). -/

namespace Sys2Proof.Machine

/-- What a block transfer computes before it moves anything (48_block R851). -/
structure BlockAddress where
  start : Word
  final : Word
deriving DecidableEq, Repr

/-- The start and final addresses in a state (48_block R851). -/
def blockAddress (pre up : Bool) (rn : RegIdx) (list : BitVec 16) (s : State) : BlockAddress :=
  { start := blockStart pre up (readReg s rn) (listSpan list)
    final := blockFinal up (readReg s rn) (listSpan list) }

/-- The registers of E with their slot addresses, ascending (48_block R851). -/
def blockSlots (start : Word) (list : BitVec 16) : List (RegIdx × Word) :=
  (listRegs list).mapIdx fun k r => (r, blockSlot start k)

/-- The value STM stores for the k-th register of E (48_block R852, R854, R856, R859). -/
def stmValue (user wback : Bool) (rn : RegIdx) (final : Word) (s : State) (k : Nat) (r : RegIdx) : Word :=
  if r = 15 then s.pc + 12#32
  else if r = rn && wback && decide (0 < k) then final
  else if user then readUser s r
  else readReg s r

/-- The writes of an STM, in order (48_block R859). -/
def stmWrites (user wback : Bool) (rn : RegIdx) (list : BitVec 16) (ba : BlockAddress) (s : State) :
    List (Word × List Byte) :=
  (listRegs list).mapIdx fun k r => (blockSlot ba.start k, wordBytes (stmValue user wback rn ba.final s k r))

/-- The end of an STM: the writes, then the base if W = 1 (48_block R859). -/
def finishStm (user pre up wback : Bool) (rn : RegIdx) (list : BitVec 16) (s : State) : Result :=
  let ba := blockAddress pre up rn list s
  store (stmWrites user wback rn list ba s) s fun t => stepPc (if wback then writeReg rn ba.final t else t)

/-- The values an LDM loads, with their registers, ascending (48_block R859). -/
def ldmValues (list : BitVec 16) (start : Word) (m : Memory) : List (RegIdx × Word) :=
  (blockSlots start list).map fun slot => (slot.1, readWord m slot.2)

/-- The loaded registers other than R15 written, in the current or the user bank (48_block R856, R859). -/
def loadRegs (user : Bool) (values : List (RegIdx × Word)) (s : State) : State :=
  values.foldl (fun s rv => if rv.1 = 15 then s else if user then writeUser rv.1 rv.2 s else writeReg rv.1 rv.2 s) s

/-- The writeback of an LDM, suppressed when Rn is in E (48_block R852). -/
def ldmWriteback (wback : Bool) (rn : RegIdx) (list : BitVec 16) (final : Word) (s : State) : State :=
  if wback && !(listRegs list).contains rn then writeReg rn final s else s

/-- The value loaded for R15, when E holds it (48_block R855). -/
def loadedPc (values : List (RegIdx × Word)) : Option Word :=
  (values.find? fun rv => rv.1 == 15).map Prod.snd

/-- The state after an LDM's writeback and loads, before the pc is set (48_block R859). -/
def afterLoads (user pre up wback : Bool) (rn : RegIdx) (list : BitVec 16) (s : State) : State :=
  let ba := blockAddress pre up rn list s
  loadRegs user (ldmValues list ba.start s.mem) (ldmWriteback wback rn list ba.final s)

/-- The value an LDM loads for R15 in a state (48_block R855). -/
def ldmPc (pre up : Bool) (rn : RegIdx) (list : BitVec 16) (s : State) : Option Word :=
  loadedPc (ldmValues list (blockAddress pre up rn list s).start s.mem)

/-- The end of an LDM of the current bank: R15 through `WritePC`, else `Step()` (48_block R855, R859). -/
def finishLdm (pre up wback : Bool) (rn : RegIdx) (list : BitVec 16) (s : State) : Result :=
  let t := afterLoads false pre up wback rn list s
  match ldmPc pre up rn list s with
  | some v => writePc v t
  | none => .next (stepPc t)

/-- The end of a user-bank LDM: the hazard bit is set (48_block R856, R859). -/
def finishLdmUser (pre up : Bool) (rn : RegIdx) (list : BitVec 16) (s : State) : Result :=
  .next (stepPc { afterLoads true pre up false rn list s with ldmUserHazard := true })

/-- The end of an LDM exception return (48_block R880). -/
def finishLdmRet (pre up wback : Bool) (rn : RegIdx) (list : BitVec 16) (s : State) : Result :=
  match ldmPc pre up rn list s with
  | some v => exceptionReturn v (afterLoads false pre up wback rn list s)
  | none => .next (stepPc (afterLoads false pre up wback rn list s))

/-- Rn = 15 (48_block R858 item 2). -/
def baseCheck (rn : RegIdx) : Bool × Fault := (rn == 15, .unpredictable 858)

/-- The checks of a user-bank form (48_block R858 items 2 to 4). -/
def userBankChecks (wback : Bool) (rn : RegIdx) (s : State) : List (Bool × Fault) :=
  [baseCheck rn, (wback, .unpredictable 858), (!s.cpsr.mode.hasSpsr, .unpredictable 858)]

/-- The checks of an exception return (48_block R857, R858 items 1 and 2). -/
def ldmRetChecks (rn : RegIdx) (s : State) : List (Bool × Fault) :=
  [(!s.armCompletion, .notInSource 857), (!s.cpsr.mode.hasSpsr, .noSpsr s.cpsr.mode), baseCheck rn]

/-- What an STM reads: the base, and the registers it stores, in the bank it stores (48_block R858 item 5). -/
def stmParts (user : Bool) (rn : RegIdx) (list : BitVec 16) (s : State) : List UnwrittenPart :=
  regParts [rn] s ++ if user then userParts (listRegs list) else regParts (listRegs list) s

/-- An LDM of the current bank. -/
def blockLoad (pre up : Bool) (c : Cond) (wback : Bool) (rn : RegIdx) (list : BitVec 16) (s : State) : Result :=
  whenPassed c (rn :: namedRegs list) s fun s =>
    checked ([baseCheck rn] ++ unwrittenChecks (regParts [rn] s) s) (finishLdm pre up wback rn list s)

/-- An STM of the current bank. -/
def blockStore (pre up : Bool) (c : Cond) (wback : Bool) (rn : RegIdx) (list : BitVec 16) (s : State) : Result :=
  whenPassed c (rn :: namedRegs list) s fun s =>
    checked ([baseCheck rn] ++ unwrittenChecks (stmParts false rn list s) s) (finishStm false pre up wback rn list s)

/-- An LDM exception return (48_block R857, R880). -/
def blockReturn (c : Cond) (pre up wback : Bool) (rn : RegIdx) (list : BitVec 16) (s : State) : Result :=
  whenPassed c (rn :: namedRegs list) s fun s =>
    checked (ldmRetChecks rn s ++ unwrittenChecks (regParts [rn] s) s) (finishLdmRet pre up wback rn list s)

/-- LDM with S = 1 and R15 listed (48_block R857, R880). -/
def execLdmRet (c : Cond) (pre up wback : Bool) (rn : RegIdx) (list : BitVec 16) (s : State) : Result :=
  blockReturn c pre up wback rn list s

/-- LDM with the user bank (48_block R878). With an empty list E is R15 alone (R853), so R15 is in E and the form is the
exception return (R856, R857; entry 13). -/
def execLdmUser (c : Cond) (pre up wback : Bool) (rn : RegIdx) (list : BitVec 16) (s : State) : Result :=
  if list = 0#16 then blockReturn c pre up wback rn list s
  else
    whenPassed c (rn :: namedRegs list) s fun s =>
      checked (userBankChecks wback rn s ++ unwrittenChecks (regParts [rn] s) s) (finishLdmUser pre up rn list s)

/-- STM with the user bank (48_block R879). -/
def execStmUser (c : Cond) (pre up wback : Bool) (rn : RegIdx) (list : BitVec 16) (s : State) : Result :=
  whenPassed c (rn :: namedRegs list) s fun s =>
    checked (userBankChecks wback rn s ++ unwrittenChecks (stmParts true rn list s) s)
      (finishStm true pre up wback rn list s)

/-- LDMIA (48_block R870). -/
def execLdmia (c : Cond) (wback : Bool) (rn : RegIdx) (list : BitVec 16) (s : State) : Result :=
  blockLoad false true c wback rn list s

/-- LDMIB (48_block R871). -/
def execLdmib (c : Cond) (wback : Bool) (rn : RegIdx) (list : BitVec 16) (s : State) : Result :=
  blockLoad true true c wback rn list s

/-- LDMDA (48_block R872). -/
def execLdmda (c : Cond) (wback : Bool) (rn : RegIdx) (list : BitVec 16) (s : State) : Result :=
  blockLoad false false c wback rn list s

/-- LDMDB (48_block R873). -/
def execLdmdb (c : Cond) (wback : Bool) (rn : RegIdx) (list : BitVec 16) (s : State) : Result :=
  blockLoad true false c wback rn list s

/-- STMIA (48_block R874). -/
def execStmia (c : Cond) (wback : Bool) (rn : RegIdx) (list : BitVec 16) (s : State) : Result :=
  blockStore false true c wback rn list s

/-- STMIB (48_block R875). -/
def execStmib (c : Cond) (wback : Bool) (rn : RegIdx) (list : BitVec 16) (s : State) : Result :=
  blockStore true true c wback rn list s

/-- STMDA (48_block R876). -/
def execStmda (c : Cond) (wback : Bool) (rn : RegIdx) (list : BitVec 16) (s : State) : Result :=
  blockStore false false c wback rn list s

/-- STMDB (48_block R877). -/
def execStmdb (c : Cond) (wback : Bool) (rn : RegIdx) (list : BitVec 16) (s : State) : Result :=
  blockStore true false c wback rn list s

end Sys2Proof.Machine
end

