-- ==== Sys2Proof/Machine/Branch.lean ====
section
/-! DEFINITION. B, BL and BX (45_branch R700 to R722). -/

namespace Sys2Proof.Machine

/-- B (45_branch R700). -/
def execB (c : Cond) (off : BitVec 24) (s : State) : Result :=
  whenPassed c [] s fun s => writePc (branchTarget off s) s

/-- BL: R14 of the current bank links the next instruction (45_branch R701). -/
def execBl (c : Cond) (off : BitVec 24) (s : State) : Result :=
  whenPassed c [14] s fun s => writePc (branchTarget off s) (writeReg 14 (s.pc + 4#32) s)

/-- The state a BX leaves for a target value: Thumb state with bit 0 cleared when bit 0 is set, else ARM state at a word
address (45_branch R720, R721). -/
def branchExchange (v : Word) (s : State) : Result :=
  if v.getLsbD 0 then .next { s with pc := v &&& ~~~1#32, cpsr := { s.cpsr with t := true } }
  else if v.getLsbD 1 then .fault (.unpredictable 721)
  else .next { s with pc := v }

/-- BX (45_branch R720). -/
def execBx (c : Cond) (rm : RegIdx) (s : State) : Result :=
  whenPassed c [rm] s fun s => checked (unwrittenChecks (regParts [rm] s) s) (branchExchange (readReg s rm) s)

end Sys2Proof.Machine
end

