-- ==== Sys2Proof/Machine/DataProcessing.lean ====
section
/-! DEFINITION. The sixteen data-processing opcodes and the undefined S = 0 test words (42_data_processing R500 to R549). -/

namespace Sys2Proof.Machine

/-- The checks of an opcode that writes a result (42_data R510 items 3 and 4, and 60_exceptions R1070 under completion).
`rn` is the Rn field, which R460 and R510 item 4 name for every opcode, also where the opcode does not read it. -/
def resultChecks (sf : Bool) (rn rd : RegIdx) (op2 : Operand2) (s : State) : List (Bool × Fault) :=
  [(rd == 15 && sf && !s.armCompletion, .notInSource 507),
   (rd == 15 && sf && !s.cpsr.mode.hasSpsr, .noSpsr s.cpsr.mode),
   (pcInRegShift [rd, rn] op2, .unpredictable 460)]

/-- The common end of the opcodes that write a result (42_data R501): R15 with S = 1 returns from an exception (R541),
R15 with S = 0 goes through `WritePC` (R506), any other register is written with the flags if S = 1. -/
def finishResult (sf : Bool) (rd : RegIdx) (gives : List UnwrittenPart) (out : Word × Flags) (s : State) : Result :=
  if rd = 15 then if sf then exceptionReturn out.1 s else writePc out.1 s
  else .next (stepPc (setFlagsIf sf gives out.2 (writeReg rd out.1 s)))

/-- An opcode that reads Rn and operand 2 and writes a result (42_data R501). -/
def dataOp (kind : AluKind) (c : Cond) (sf : Bool) (rn rd : RegIdx) (op2 : Operand2)
    (extra : State → List (Bool × Fault)) (f : Word → Shifted → Flags → Word × Flags) (s : State) : Result :=
  whenPassed c (rn :: rd :: operand2Regs op2) s fun s =>
    checked (extra s ++ resultChecks sf rn rd op2 s ++
        unwrittenChecks (regParts [rn] s ++ operand2Parts op2 s ++ kind.reads) s)
      (finishResult sf rd (kind.gives (carryKept op2 s)) (f (readReg s rn) (shiftOperand op2 s) s.cpsr.flags) s)

/-- An opcode that reads operand 2 only and writes a result; its Rn field is not read (42_data R500), and R15 in it
faults in a register-specified shift (41_shifter R460). -/
def moveOp (c : Cond) (sf : Bool) (rn rd : RegIdx) (op2 : Operand2) (extra : State → List (Bool × Fault))
    (f : Shifted → Flags → Word × Flags) (s : State) : Result :=
  whenPassed c (rd :: operand2Regs op2) s fun s =>
    checked (extra s ++ resultChecks sf rn rd op2 s ++ unwrittenChecks (operand2Parts op2 s) s)
      (finishResult sf rd (AluKind.logical.gives (carryKept op2 s)) (f (shiftOperand op2 s) s.cpsr.flags) s)

/-- A test opcode: it writes the flags, no register, and always steps; its Rd field is ignored (42_data R509). -/
def testOp (kind : AluKind) (c : Cond) (rn : RegIdx) (op2 : Operand2) (extra : State → List (Bool × Fault))
    (f : Word → Shifted → Flags → Word × Flags) (s : State) : Result :=
  whenPassed c (rn :: operand2Regs op2) s fun s =>
    checked (extra s ++ [(pcInRegShift [rn] op2, .unpredictable 460)] ++
        unwrittenChecks (regParts [rn] s ++ operand2Parts op2 s) s)
      (.next (stepPc (setFlags (kind.gives (carryKept op2 s)) (f (readReg s rn) (shiftOperand op2 s) s.cpsr.flags).2 s)))

/-- A result with its logical flags (42_data R505). -/
def withLogicalFlags (result : Word) (sc : Bool) (old : Flags) : Word × Flags := (result, logicalFlags result sc old)

/-- An implemented opcode has no check of its own. -/
def noCheck (_ : State) : List (Bool × Fault) := []

/-- An opcode the source leaves unimplemented (42_data R510 item 2, 60_exceptions R1011). -/
def completionCheck (opcode : BitVec 4) (sf : Bool) (s : State) : List (Bool × Fault) :=
  [unimplementedCheck (.dataProcessing opcode sf) s]

/-- What AND computes (42_data R520). -/
def andFn (a : Word) (b : Shifted) (old : Flags) : Word × Flags := withLogicalFlags (a &&& b.value) b.carry old

/-- What EOR computes (R521). -/
def eorFn (a : Word) (b : Shifted) (old : Flags) : Word × Flags := withLogicalFlags (a ^^^ b.value) b.carry old

/-- What SUB computes (R522). -/
def subFn (a : Word) (b : Shifted) (_ : Flags) : Word × Flags := subWithFlags a b.value

/-- What RSB computes (R542). -/
def rsbFn (a : Word) (b : Shifted) (_ : Flags) : Word × Flags := subWithFlags b.value a

/-- What ADD computes (R524). -/
def addFn (a : Word) (b : Shifted) (_ : Flags) : Word × Flags := addWithFlags a b.value false

/-- What ADC computes (R543). -/
def adcFn (a : Word) (b : Shifted) (old : Flags) : Word × Flags := addWithFlags a b.value old.c

/-- What SBC computes (R544). -/
def sbcFn (a : Word) (b : Shifted) (old : Flags) : Word × Flags := addWithFlags a (~~~b.value) old.c

/-- What RSC computes (R545). -/
def rscFn (a : Word) (b : Shifted) (old : Flags) : Word × Flags := addWithFlags b.value (~~~a) old.c

/-- What TST computes (R528). -/
def tstFn (a : Word) (b : Shifted) (old : Flags) : Word × Flags := withLogicalFlags (a &&& b.value) b.carry old

/-- What TEQ computes (R546). -/
def teqFn (a : Word) (b : Shifted) (old : Flags) : Word × Flags := withLogicalFlags (a ^^^ b.value) b.carry old

/-- What CMP computes (R530). -/
def cmpFn (a : Word) (b : Shifted) (_ : Flags) : Word × Flags := subWithFlags a b.value

/-- What CMN computes (R547). -/
def cmnFn (a : Word) (b : Shifted) (_ : Flags) : Word × Flags := addWithFlags a b.value false

/-- What ORR computes (R532). -/
def orrFn (a : Word) (b : Shifted) (old : Flags) : Word × Flags := withLogicalFlags (a ||| b.value) b.carry old

/-- What MOV computes (R533). -/
def movFn (b : Shifted) (old : Flags) : Word × Flags := withLogicalFlags b.value b.carry old

/-- What BIC computes (R548). -/
def bicFn (a : Word) (b : Shifted) (old : Flags) : Word × Flags := withLogicalFlags (a &&& ~~~b.value) b.carry old

/-- What MVN computes (R549). -/
def mvnFn (b : Shifted) (old : Flags) : Word × Flags := withLogicalFlags (~~~b.value) b.carry old

/-- AND (42_data R520). -/
def execAnd (c : Cond) (sf : Bool) (rn rd : RegIdx) (op2 : Operand2) (s : State) : Result :=
  dataOp .logical c sf rn rd op2 noCheck andFn s

/-- EOR (42_data R521). -/
def execEor (c : Cond) (sf : Bool) (rn rd : RegIdx) (op2 : Operand2) (s : State) : Result :=
  dataOp .logical c sf rn rd op2 noCheck eorFn s

/-- SUB (42_data R522). -/
def execSub (c : Cond) (sf : Bool) (rn rd : RegIdx) (op2 : Operand2) (s : State) : Result :=
  dataOp .arithmetic c sf rn rd op2 noCheck subFn s

/-- RSB (42_data R523, R542). -/
def execRsb (c : Cond) (sf : Bool) (rn rd : RegIdx) (op2 : Operand2) (s : State) : Result :=
  dataOp .arithmetic c sf rn rd op2 (completionCheck 3#4 sf) rsbFn s

/-- ADD (42_data R524). -/
def execAdd (c : Cond) (sf : Bool) (rn rd : RegIdx) (op2 : Operand2) (s : State) : Result :=
  dataOp .arithmetic c sf rn rd op2 noCheck addFn s

/-- ADC (42_data R525, R543). -/
def execAdc (c : Cond) (sf : Bool) (rn rd : RegIdx) (op2 : Operand2) (s : State) : Result :=
  dataOp .carryIn c sf rn rd op2 (completionCheck 5#4 sf) adcFn s

/-- SBC (42_data R526, R544). -/
def execSbc (c : Cond) (sf : Bool) (rn rd : RegIdx) (op2 : Operand2) (s : State) : Result :=
  dataOp .carryIn c sf rn rd op2 (completionCheck 6#4 sf) sbcFn s

/-- RSC (42_data R527, R545). -/
def execRsc (c : Cond) (sf : Bool) (rn rd : RegIdx) (op2 : Operand2) (s : State) : Result :=
  dataOp .carryIn c sf rn rd op2 (completionCheck 7#4 sf) rscFn s

/-- TST (42_data R528). The Rd field is ignored (R509, entry 12). -/
def execTst (c : Cond) (rn _rd : RegIdx) (op2 : Operand2) (s : State) : Result :=
  testOp .logical c rn op2 noCheck tstFn s

/-- TEQ (42_data R529, R546). -/
def execTeq (c : Cond) (rn _rd : RegIdx) (op2 : Operand2) (s : State) : Result :=
  testOp .logical c rn op2 (completionCheck 9#4 true) teqFn s

/-- CMP (42_data R530). -/
def execCmp (c : Cond) (rn _rd : RegIdx) (op2 : Operand2) (s : State) : Result :=
  testOp .arithmetic c rn op2 noCheck cmpFn s

/-- CMN (42_data R531, R547). -/
def execCmn (c : Cond) (rn _rd : RegIdx) (op2 : Operand2) (s : State) : Result :=
  testOp .arithmetic c rn op2 (completionCheck 11#4 true) cmnFn s

/-- ORR (42_data R532). -/
def execOrr (c : Cond) (sf : Bool) (rn rd : RegIdx) (op2 : Operand2) (s : State) : Result :=
  dataOp .logical c sf rn rd op2 noCheck orrFn s

/-- MOV (42_data R533). The Rn field is not read (R500). -/
def execMov (c : Cond) (sf : Bool) (rn rd : RegIdx) (op2 : Operand2) (s : State) : Result :=
  moveOp c sf rn rd op2 noCheck movFn s

/-- BIC (42_data R534, R548). -/
def execBic (c : Cond) (sf : Bool) (rn rd : RegIdx) (op2 : Operand2) (s : State) : Result :=
  dataOp .logical c sf rn rd op2 (completionCheck 14#4 sf) bicFn s

/-- MVN (42_data R535, R549). The Rn field is not read (R549). -/
def execMvn (c : Cond) (sf : Bool) (rn rd : RegIdx) (op2 : Operand2) (s : State) : Result :=
  moveOp c sf rn rd op2 (completionCheck 15#4 sf) mvnFn s

/-- A test opcode with S = 0 (42_data R508). It touches what its family touches (entry 27). -/
def execUndefTest (c : Cond) (imm : Bool) (_op : BitVec 2) (rn _rd : RegIdx) (rest : BitVec 12) (s : State) : Result :=
  whenPassed c (undefTestRegs imm rn rest) s (undefinedEncoding .dataProcessing)

end Sys2Proof.Machine
end

