-- ==== Sys2Proof/Machine/Multiply.lean ====
section
/-! DEFINITION. MUL, MLA and the long multiplies (43_multiply R600 to R617). -/

namespace Sys2Proof.Machine

/-- The end of MUL and MLA (43_multiply R601 to R603): the flags when S = 1, whose C is drawn, and the result, to R15
through `WritePC`. -/
def finishMultiply (sf : Bool) (rd : RegIdx) (result : Word) (s : State) : Result :=
  if sf then writeResult rd result (afterDraw (setFlags multiplyParts (multiplyFlags result (drawn s) s.cpsr.flags) s))
  else writeResult rd result s

/-- MUL (43_multiply R601); the Rn field is not read (R600). -/
def execMul (c : Cond) (sf : Bool) (rd _rn rs rm : RegIdx) (s : State) : Result :=
  whenPassed c [rd, rm, rs] s fun s =>
    checked ([(rm == 15 || rs == 15, .unpredictable 604)] ++ unwrittenChecks (regParts [rm, rs] s) s)
      (finishMultiply sf rd (readReg s rm * readReg s rs) s)

/-- MLA (43_multiply R606). -/
def execMla (c : Cond) (sf : Bool) (rd rn rs rm : RegIdx) (s : State) : Result :=
  whenPassed c [rd, rm, rs, rn] s fun s =>
    checked ([(rm == 15 || rs == 15 || rn == 15, .unpredictable 604)] ++ unwrittenChecks (regParts [rm, rs, rn] s) s)
      (finishMultiply sf rd (readReg s rm * readReg s rs + readReg s rn) s)

/-- The register combinations a long multiply faults on (43_multiply R617 items 1 and 2). -/
def longMultiplyFault (rdHi rdLo rs rm : RegIdx) : Bool :=
  [rdHi, rdLo, rm, rs].contains 15 || rdHi == rdLo || rdHi == rm || rdLo == rm

/-- The 64-bit accumulator `x[RdHi] : x[RdLo]` (43_multiply R611). -/
def accumulator (rdHi rdLo : RegIdx) (s : State) : BitVec 64 := readReg s rdHi ++ readReg s rdLo

/-- The registers a long multiply reads (43_multiply R617 item 3). -/
def longSources (a : Bool) (rdHi rdLo rs rm : RegIdx) : List RegIdx := if a then [rm, rs, rdHi, rdLo] else [rm, rs]

/-- The end of a long multiply: both halves written, the flags when S = 1 (43_multiply R611, R616). -/
def finishLongMultiply (sf : Bool) (rdHi rdLo : RegIdx) (r : BitVec 64) (s : State) : Result :=
  let written := writeReg rdHi (r.extractLsb' 32 32) (writeReg rdLo (r.extractLsb' 0 32) s)
  .next (stepPc (if sf then afterDraw (setFlags flagParts (multiplyLongFlags r (drawn s)) written) else written))

/-- A long multiply: `u` 1 for signed, `a` to accumulate, `product` of Rm and Rs (43_multiply R610 to R617). -/
def longMultiply (u a : Bool) (c : Cond) (sf : Bool) (rdHi rdLo rs rm : RegIdx) (product : Word → Word → BitVec 64)
    (s : State) : Result :=
  whenPassed c [rdHi, rdLo, rm, rs] s fun s =>
    checked
      ([unimplementedCheck (.multiplyLong u a sf) s, (longMultiplyFault rdHi rdLo rs rm, .unpredictable 617)] ++
        unwrittenChecks (regParts (longSources a rdHi rdLo rs rm) s) s)
      (finishLongMultiply sf rdHi rdLo
        (product (readReg s rm) (readReg s rs) + if a then accumulator rdHi rdLo s else 0#64) s)

/-- The product of two unsigned words (43_multiply R612). -/
def unsignedProduct (x y : Word) : BitVec 64 := x.setWidth 64 * y.setWidth 64

/-- The product of two signed words (43_multiply R614). -/
def signedProduct (x y : Word) : BitVec 64 := x.signExtend 64 * y.signExtend 64

/-- UMULL (43_multiply R612). -/
def execUmull (c : Cond) (sf : Bool) (rdHi rdLo rs rm : RegIdx) (s : State) : Result :=
  longMultiply false false c sf rdHi rdLo rs rm unsignedProduct s

/-- UMLAL (43_multiply R613). -/
def execUmlal (c : Cond) (sf : Bool) (rdHi rdLo rs rm : RegIdx) (s : State) : Result :=
  longMultiply false true c sf rdHi rdLo rs rm unsignedProduct s

/-- SMULL (43_multiply R614). -/
def execSmull (c : Cond) (sf : Bool) (rdHi rdLo rs rm : RegIdx) (s : State) : Result :=
  longMultiply true false c sf rdHi rdLo rs rm signedProduct s

/-- SMLAL (43_multiply R615). -/
def execSmlal (c : Cond) (sf : Bool) (rdHi rdLo rs rm : RegIdx) (s : State) : Result :=
  longMultiply true true c sf rdHi rdLo rs rm signedProduct s

end Sys2Proof.Machine
end

