-- ==== Sys2Proof/Machine/Status.lean ====
section
/-! DEFINITION. MRS and MSR (44_status R650 to R665). -/

namespace Sys2Proof.Machine

/-- An SPSR access in a mode that has none (44_status R651, R662 item 1). -/
def spsrCheck (psr : PsrSel) (s : State) : Bool × Fault :=
  (psr == .spsr && !s.cpsr.mode.hasSpsr, .noSpsr s.cpsr.mode)

/-- The flags and control byte of the PSR an MRS names; a mode without an SPSR is refused before (R651). -/
def psrParts (psr : PsrSel) (s : State) : Spsr :=
  match psr with
  | .cpsr => savedPsr s.cpsr
  | .spsr => (spsrOf s.cpsr.mode s).getD Spsr.reset

/-- The value an MRS reads (44_status R650, R651). -/
def mrsValue (psr : PsrSel) (s : State) : Word :=
  psrWord (psrParts psr s).flags (psrParts psr s).control (drawn s)

/-- What an MRS reads: the flags of the CPSR, whose control byte always holds a value, or both parts of the current SPSR
(44_status R650, R651). -/
def mrsParts (psr : PsrSel) (s : State) : List UnwrittenPart :=
  match psr with
  | .cpsr => flagParts
  | .spsr => spsrParts s.cpsr.mode

/-- MRS; R15 through `WritePC` (44_status R650 to R652). -/
def execMrs (c : Cond) (psr : PsrSel) (rd : RegIdx) (s : State) : Result :=
  whenPassed c [rd] s fun s =>
    checked ([spsrCheck psr s] ++ unwrittenChecks (mrsParts psr s) s) (writeResult rd (mrsValue psr s) (afterDraw s))

/-- The flags an MSR with field f gives, bits 31:28 (44_status R661, R663). -/
def flagsOf (v : Word) : Flags := { n := v.getLsbD 31, z := v.getLsbD 30, c := v.getLsbD 29, v := v.getLsbD 28 }

/-- The flags part of a PSR after an MSR: field f writes it (44_status R661, R663). -/
def msrFlags (flagsField : Bool) (v : Word) (old : Flags) : Flags := if flagsField then flagsOf v else old

/-- Field c has an effect on the CPSR in a privileged mode only (44_status R661). -/
def ctrlWritten (ctrlField : Bool) (s : State) : Bool := ctrlField && s.cpsr.mode.privileged

/-- The CPSR after field c: I, F and M change, T does not (44_status R661). A value that is no mode is refused before
(R662). -/
def msrControl (v : Word) (p : Cpsr) : Cpsr :=
  { p with i := v.getLsbD 7, f := v.getLsbD 6, mode := (modeOf (v.extractLsb' 0 5)).getD p.mode }

/-- The CPSR after an MSR (44_status R661). -/
def msrCpsr (fields : MsrFields) (v : Word) (s : State) : Cpsr :=
  let p := { s.cpsr with flags := msrFlags fields.flags v s.cpsr.flags }
  if ctrlWritten fields.ctrl s then msrControl v p else p

/-- An SPSR after an MSR: every masked byte as given (44_status R663). -/
def msrSpsr (fields : MsrFields) (v : Word) (p : Spsr) : Spsr :=
  { flags := msrFlags fields.flags v p.flags, control := if fields.ctrl then v.extractLsb' 0 8 else p.control }

/-- The checks on the value an MSR writes to the CPSR's control byte (44_status R662 item 4). -/
def msrValueChecks (psr : PsrSel) (fields : MsrFields) (v : Word) (s : State) : List (Bool × Fault) :=
  [(psr == .cpsr && ctrlWritten fields.ctrl s && v.getLsbD 5 != s.cpsr.t, .unpredictable 662),
   (psr == .cpsr && ctrlWritten fields.ctrl s && (modeOf (v.extractLsb' 0 5)).isNone, .unpredictable 662)]

/-- The parts an MSR gives a value; a part that the mask leaves out stays as it was (44_status R661, R663). -/
def msrParts (psr : PsrSel) (fields : MsrFields) (s : State) : List UnwrittenPart :=
  match psr with
  | .cpsr => if fields.flags then flagParts else []
  | .spsr =>
    (if fields.flags then [.spsrFlags s.cpsr.mode] else []) ++
      if fields.ctrl then [.spsrControl s.cpsr.mode] else []

/-- The effect of an MSR of a value (44_status R661, R663, R664). -/
def msrEffect (psr : PsrSel) (fields : MsrFields) (v : Word) (s : State) : State :=
  give (msrParts psr fields s)
    (match psr with
    | .cpsr => stepPc { s with cpsr := msrCpsr fields v s }
    | .spsr => stepPc (setSpsr s.cpsr.mode (msrSpsr fields v (psrParts .spsr s)) s))

/-- MSR, register form; mask bits s and x have no effect (44_status R660 to R664). -/
def execMsrReg (c : Cond) (psr : PsrSel) (fields : MsrFields) (_ignored : BitVec 2) (rm : RegIdx) (s : State) : Result :=
  whenPassed c [rm] s fun s =>
    checked ([spsrCheck psr s, (rm == 15, .unpredictable 662)] ++ unwrittenChecks (regParts [rm] s) s ++
        msrValueChecks psr fields (readReg s rm) s)
      (.next (msrEffect psr fields (readReg s rm) s))

/-- MSR, immediate form; the shifter carry-out is discarded, and mask bits s and x have no effect (44_status R660 to
R664). -/
def execMsrImm (c : Cond) (psr : PsrSel) (fields : MsrFields) (_ignored : BitVec 2) (rot : BitVec 4) (imm8 : BitVec 8)
    (s : State) : Result :=
  whenPassed c [] s fun s =>
    checked ([spsrCheck psr s] ++ msrValueChecks psr fields (rotatedImm rot imm8) s)
      (.next (msrEffect psr fields (rotatedImm rot imm8) s))

end Sys2Proof.Machine
end

