-- ==== Sys2Proof/Machine/Transfer.lean ====
section
/-! DEFINITION. Single data transfers, halfword and signed transfers, and swap (46_single R750 to R768, 47_halfword
R800 to R833). -/

namespace Sys2Proof.Machine

/-! ## Common ends -/

/-- The end of a load (46_single R756, R757, 47_halfword R807): writeback unless Rd = Rn, then Rd, R15 through
`WritePC`. -/
def finishLoad (rn rd : RegIdx) (ix : Indexed) (data : Word) (s : State) : Result :=
  writeResult rd data (if ix.wb && rd != rn then writeReg rn ix.moved s else s)

/-- The end of a store: memory, then the writeback (46_single R755, 47_halfword R808). -/
def finishStore (rn : RegIdx) (ix : Indexed) (addr : Word) (bytes : List Byte) (s : State) : Result :=
  store [(addr, bytes)] s fun s => stepPc (if ix.wb then writeReg rn ix.moved s else s)

/-! ## Single data transfers -/

/-- R15 as a register offset, and writeback to R15 (46_single R753 items 1 and 2). -/
def singleChecks (pre wback : Bool) (rn : RegIdx) (off : Offset) : List (Bool × Fault) :=
  [((offsetRegs off).contains 15, .unpredictable 753), ((!pre || wback) && rn == 15, .unpredictable 753)]

/-- A single load through a read of memory (46_single R760, R761). -/
def singleLoad (read : Memory → Word → Word) (c : Cond) (pre up wback : Bool) (rn rd : RegIdx) (off : Offset)
    (s : State) : Result :=
  whenPassed c (rn :: rd :: offsetRegs off) s fun s =>
    let ix := singleAddress pre up wback rn off s
    checked (singleChecks pre wback rn off ++ unwrittenChecks (regParts [rn] s ++ offsetParts off s) s)
      (finishLoad rn rd ix (read s.mem ix.addr) s)

/-- A word store, to the aligned word, not rotated (46_single R762, 20_memory R208). -/
def singleStoreWord (c : Cond) (pre up wback : Bool) (rn rd : RegIdx) (off : Offset) (s : State) : Result :=
  whenPassed c (rn :: rd :: offsetRegs off) s fun s =>
    let ix := singleAddress pre up wback rn off s
    checked (singleChecks pre wback rn off ++ unwrittenChecks (regParts [rn, rd] s ++ offsetParts off s) s)
      (finishStore rn ix (alignWord ix.addr) (wordBytes (storeValue s rd)) s)

/-- A byte store (46_single R763). -/
def singleStoreByte (c : Cond) (pre up wback : Bool) (rn rd : RegIdx) (off : Offset) (s : State) : Result :=
  whenPassed c (rn :: rd :: offsetRegs off) s fun s =>
    let ix := singleAddress pre up wback rn off s
    checked (singleChecks pre wback rn off ++ unwrittenChecks (regParts [rn, rd] s ++ offsetParts off s) s)
      (finishStore rn ix ix.addr [(storeValue s rd).extractLsb' 0 8] s)

/-- LDR (46_single R760). -/
def execLdr (c : Cond) (pre up wback : Bool) (rn rd : RegIdx) (off : Offset) (s : State) : Result :=
  singleLoad readRotateWord c pre up wback rn rd off s

/-- LDRB (46_single R761). -/
def execLdrb (c : Cond) (pre up wback : Bool) (rn rd : RegIdx) (off : Offset) (s : State) : Result :=
  singleLoad readZeroByte c pre up wback rn rd off s

/-- STR (46_single R762). -/
def execStr (c : Cond) (pre up wback : Bool) (rn rd : RegIdx) (off : Offset) (s : State) : Result :=
  singleStoreWord c pre up wback rn rd off s

/-- STRB (46_single R763). -/
def execStrb (c : Cond) (pre up wback : Bool) (rn rd : RegIdx) (off : Offset) (s : State) : Result :=
  singleStoreByte c pre up wback rn rd off s

/-- LDRT: LDR with P = 0 and W = 1 (46_single R758, R764). -/
def execLdrt (c : Cond) (up : Bool) (rn rd : RegIdx) (off : Offset) (s : State) : Result :=
  singleLoad readRotateWord c false up true rn rd off s

/-- LDRBT: LDRB with P = 0 and W = 1 (46_single R758, R765). -/
def execLdrbt (c : Cond) (up : Bool) (rn rd : RegIdx) (off : Offset) (s : State) : Result :=
  singleLoad readZeroByte c false up true rn rd off s

/-- STRT: STR with P = 0 and W = 1 (46_single R758, R766). -/
def execStrt (c : Cond) (up : Bool) (rn rd : RegIdx) (off : Offset) (s : State) : Result :=
  singleStoreWord c false up true rn rd off s

/-- STRBT: STRB with P = 0 and W = 1 (46_single R758, R767). -/
def execStrbt (c : Cond) (up : Bool) (rn rd : RegIdx) (off : Offset) (s : State) : Result :=
  singleStoreByte c false up true rn rd off s

/-! ## Halfword and signed transfers -/

/-- R15 as a register offset, and writeback to R15 (47_halfword R802, R803). -/
def halfwordChecks (pre wback : Bool) (rn : RegIdx) (off : HalfOffset) : List (Bool × Fault) :=
  [((halfOffsetRegs off).contains 15, .unpredictable 802), ((!pre || wback) && rn == 15, .unpredictable 803)]

/-- A halfword or signed load through a read of memory (47_halfword R806, R810). -/
def halfwordLoad (read : Memory → Word → Word) (extra : State → List (Bool × Fault)) (c : Cond) (pre up wback : Bool)
    (rn rd : RegIdx) (off : HalfOffset) (s : State) : Result :=
  whenPassed c (rn :: rd :: halfOffsetRegs off) s fun s =>
    let ix := halfwordAddress pre up wback rn off s
    checked (extra s ++ halfwordChecks pre wback rn off ++ unwrittenChecks (regParts (rn :: halfOffsetRegs off) s) s)
      (finishLoad rn rd ix (read s.mem ix.addr) s)

/-- LDRH (47_halfword R810). -/
def execLdrh (c : Cond) (pre up wback : Bool) (rn rd : RegIdx) (off : HalfOffset) (s : State) : Result :=
  halfwordLoad readRotateHalf (fun _ => []) c pre up wback rn rd off s

/-- STRH, to the aligned halfword (47_halfword R811). -/
def execStrh (c : Cond) (pre up wback : Bool) (rn rd : RegIdx) (off : HalfOffset) (s : State) : Result :=
  whenPassed c (rn :: rd :: halfOffsetRegs off) s fun s =>
    let ix := halfwordAddress pre up wback rn off s
    checked (halfwordChecks pre wback rn off ++ unwrittenChecks (regParts (rn :: rd :: halfOffsetRegs off) s) s)
      (finishStore rn ix (alignHalf ix.addr) (halfBytes ((storeValue s rd).extractLsb' 0 16)) s)

/-- LDRSB (47_halfword R812). -/
def execLdrsb (c : Cond) (pre up wback : Bool) (rn rd : RegIdx) (off : HalfOffset) (s : State) : Result :=
  halfwordLoad readSignedByte (fun _ => []) c pre up wback rn rd off s

/-- LDRSH (47_halfword R813, R814). -/
def execLdrsh (c : Cond) (pre up wback : Bool) (rn rd : RegIdx) (off : HalfOffset) (s : State) : Result :=
  halfwordLoad readSignedHalf (fun s => [unimplementedCheck (.halfword true true) s]) c pre up wback rn rd off s

/-- SH = 00 in the halfword space (47_halfword R804). It touches what its family touches (entry 27). -/
def execUndefHalfword (c : Cond) (_pre _up imm _wback _load : Bool) (rn rd : RegIdx) (_hi lo : BitVec 4)
    (s : State) : Result :=
  whenPassed c (undefHalfwordRegs imm rn rd lo) s (undefinedEncoding .halfword)

/-- A signed store (47_halfword R805). It touches what its family touches (entry 27). -/
def execUndefSignedStore (c : Cond) (_pre _up imm _wback _h : Bool) (rn rd : RegIdx) (_hi lo : BitVec 4)
    (s : State) : Result :=
  whenPassed c (undefHalfwordRegs imm rn rd lo) s (undefinedEncoding .halfword)

/-! ## Swap -/

/-- The register combinations a swap faults on (47_halfword R833 items 1 and 2). -/
def swapFault (rn rd rm : RegIdx) : Bool := [rd, rn, rm].contains 15 || rn == rd || rn == rm

/-- A swap: the read, the write of Rm's value before the instruction, then Rd (47_halfword R830 to R833). -/
def swap (byte : Bool) (c : Cond) (rn rd rm : RegIdx) (read : Memory → Word → Word) (align : Word → Word)
    (bytes : Word → List Byte) (s : State) : Result :=
  whenPassed c [rn, rd, rm] s fun s =>
    checked ([unimplementedCheck (.swap byte) s, (swapFault rn rd rm, .unpredictable 833)] ++
        unwrittenChecks (regParts [rn, rm] s) s)
      (store [(align (readReg s rn), bytes (readReg s rm))] s fun t =>
        stepPc (writeReg rd (read s.mem (readReg s rn)) t))

/-- SWP (47_halfword R831). -/
def execSwp (c : Cond) (rn rd rm : RegIdx) (s : State) : Result :=
  swap false c rn rd rm readRotateWord alignWord wordBytes s

/-- SWPB (47_halfword R832). -/
def execSwpb (c : Cond) (rn rd rm : RegIdx) (s : State) : Result :=
  swap true c rn rd rm readZeroByte id (fun v => [v.extractLsb' 0 8]) s

end Sys2Proof.Machine
end

