-- ==== Sys2Proof/Machine/Trap.lean ====
section
/-! DEFINITION. SWI, the coprocessor instructions, the undefined gap and the fallback (49_unimplemented R900 to R930).
None of them touches a register (70_reset R1121). -/

namespace Sys2Proof.Machine

/-- SWI (49_unimplemented R900, R901). -/
def execSwi (c : Cond) (_comment : BitVec 24) (s : State) : Result :=
  whenPassed c [] s (unimplementedOrTrap .softwareInterrupt .swi)

/-- CDP (49_unimplemented R910, R915). -/
def execCdp (c : Cond) (_op1 _crn _crd _cp : BitVec 4) (_op2 : BitVec 3) (_crm : BitVec 4) (s : State) : Result :=
  whenPassed c [] s (unimplementedOrTrap .coprocDataOperation .undefined)

/-- LDC: no base is read, nothing is loaded (49_unimplemented R911, R915). -/
def execLdc (c : Cond) (_pre _up _n _wback : Bool) (_rn : RegIdx) (_crd _cp : BitVec 4) (_off : BitVec 8) (s : State) :
    Result :=
  whenPassed c [] s (unimplementedOrTrap (.coprocDataTransfer true) .undefined)

/-- STC: no memory is written (49_unimplemented R912, R915). -/
def execStc (c : Cond) (_pre _up _n _wback : Bool) (_rn : RegIdx) (_crd _cp : BitVec 4) (_off : BitVec 8) (s : State) :
    Result :=
  whenPassed c [] s (unimplementedOrTrap (.coprocDataTransfer false) .undefined)

/-- MCR: Rd is not read (49_unimplemented R913, R915). -/
def execMcr (c : Cond) (_op1 : BitVec 3) (_crn : BitVec 4) (_rd : RegIdx) (_cp : BitVec 4) (_op2 : BitVec 3)
    (_crm : BitVec 4) (s : State) : Result :=
  whenPassed c [] s (unimplementedOrTrap (.coprocRegisterTransfer false) .undefined)

/-- MRC: Rd is not written (49_unimplemented R914, R915). -/
def execMrc (c : Cond) (_op1 : BitVec 3) (_crn : BitVec 4) (_rd : RegIdx) (_cp : BitVec 4) (_op2 : BitVec 3)
    (_crm : BitVec 4) (s : State) : Result :=
  whenPassed c [] s (unimplementedOrTrap (.coprocRegisterTransfer true) .undefined)

/-- The undefined gap (49_unimplemented R920, R921). -/
def execUndefGap (c : Cond) (_hi : BitVec 20) (_lo : BitVec 4) (s : State) : Result :=
  whenPassed c [] s (undefinedEncoding .undefinedGap)

/-- The fallback entry (49_unimplemented R930). -/
def execFallback (c : Cond) (s : State) : Result :=
  whenPassed c [] s (unimplementedOrTrap .fallback .undefined)

end Sys2Proof.Machine
end

