-- ==== Sys2Proof/Machine/Dispatch.lean ====
section
/-! DEFINITION. One arm per constructor of Instr, each a direct call of its meaning (40_dispatch R430). -/

namespace Sys2Proof.Machine

def exec (i : Instr) (s : State) : Host.Outcome State Fault Refusal :=
  match i with
  | .mul c sf rd rn rs rm => Sys2Proof.Machine.execMul c sf rd rn rs rm s
  | .mla c sf rd rn rs rm => Sys2Proof.Machine.execMla c sf rd rn rs rm s
  | .umull c sf rdHi rdLo rs rm => Sys2Proof.Machine.execUmull c sf rdHi rdLo rs rm s
  | .umlal c sf rdHi rdLo rs rm => Sys2Proof.Machine.execUmlal c sf rdHi rdLo rs rm s
  | .smull c sf rdHi rdLo rs rm => Sys2Proof.Machine.execSmull c sf rdHi rdLo rs rm s
  | .smlal c sf rdHi rdLo rs rm => Sys2Proof.Machine.execSmlal c sf rdHi rdLo rs rm s
  | .swp c rn rd rm => Sys2Proof.Machine.execSwp c rn rd rm s
  | .swpb c rn rd rm => Sys2Proof.Machine.execSwpb c rn rd rm s
  | .bx c rm => Sys2Proof.Machine.execBx c rm s
  | .ldrh c pre up wback rn rd off => Sys2Proof.Machine.execLdrh c pre up wback rn rd off s
  | .strh c pre up wback rn rd off => Sys2Proof.Machine.execStrh c pre up wback rn rd off s
  | .ldrsb c pre up wback rn rd off => Sys2Proof.Machine.execLdrsb c pre up wback rn rd off s
  | .ldrsh c pre up wback rn rd off => Sys2Proof.Machine.execLdrsh c pre up wback rn rd off s
  | .undefHalfword c pre up imm wback load rn rd hi lo => Sys2Proof.Machine.execUndefHalfword c pre up imm wback load rn rd hi lo s
  | .undefSignedStore c pre up imm wback h rn rd hi lo => Sys2Proof.Machine.execUndefSignedStore c pre up imm wback h rn rd hi lo s
  | .undefGap c hi lo => Sys2Proof.Machine.execUndefGap c hi lo s
  | .ldrt c up rn rd off => Sys2Proof.Machine.execLdrt c up rn rd off s
  | .strt c up rn rd off => Sys2Proof.Machine.execStrt c up rn rd off s
  | .ldrbt c up rn rd off => Sys2Proof.Machine.execLdrbt c up rn rd off s
  | .strbt c up rn rd off => Sys2Proof.Machine.execStrbt c up rn rd off s
  | .ldr c pre up wback rn rd off => Sys2Proof.Machine.execLdr c pre up wback rn rd off s
  | .str c pre up wback rn rd off => Sys2Proof.Machine.execStr c pre up wback rn rd off s
  | .ldrb c pre up wback rn rd off => Sys2Proof.Machine.execLdrb c pre up wback rn rd off s
  | .strb c pre up wback rn rd off => Sys2Proof.Machine.execStrb c pre up wback rn rd off s
  | .ldmRet c pre up wback rn list => Sys2Proof.Machine.execLdmRet c pre up wback rn list s
  | .ldmUser c pre up wback rn list => Sys2Proof.Machine.execLdmUser c pre up wback rn list s
  | .stmUser c pre up wback rn list => Sys2Proof.Machine.execStmUser c pre up wback rn list s
  | .ldmia c wback rn list => Sys2Proof.Machine.execLdmia c wback rn list s
  | .ldmib c wback rn list => Sys2Proof.Machine.execLdmib c wback rn list s
  | .ldmda c wback rn list => Sys2Proof.Machine.execLdmda c wback rn list s
  | .ldmdb c wback rn list => Sys2Proof.Machine.execLdmdb c wback rn list s
  | .stmia c wback rn list => Sys2Proof.Machine.execStmia c wback rn list s
  | .stmib c wback rn list => Sys2Proof.Machine.execStmib c wback rn list s
  | .stmda c wback rn list => Sys2Proof.Machine.execStmda c wback rn list s
  | .stmdb c wback rn list => Sys2Proof.Machine.execStmdb c wback rn list s
  | .b c off => Sys2Proof.Machine.execB c off s
  | .bl c off => Sys2Proof.Machine.execBl c off s
  | .ldc c pre up n wback rn crd cp off => Sys2Proof.Machine.execLdc c pre up n wback rn crd cp off s
  | .stc c pre up n wback rn crd cp off => Sys2Proof.Machine.execStc c pre up n wback rn crd cp off s
  | .cdp c op1 crn crd cp op2 crm => Sys2Proof.Machine.execCdp c op1 crn crd cp op2 crm s
  | .mcr c op1 crn rd cp op2 crm => Sys2Proof.Machine.execMcr c op1 crn rd cp op2 crm s
  | .mrc c op1 crn rd cp op2 crm => Sys2Proof.Machine.execMrc c op1 crn rd cp op2 crm s
  | .swi c comment => Sys2Proof.Machine.execSwi c comment s
  | .mrs c psr rd => Sys2Proof.Machine.execMrs c psr rd s
  | .msrReg c psr fields ignored rm => Sys2Proof.Machine.execMsrReg c psr fields ignored rm s
  | .msrImm c psr fields ignored rot imm8 => Sys2Proof.Machine.execMsrImm c psr fields ignored rot imm8 s
  | .undefTest c imm op rn rd rest => Sys2Proof.Machine.execUndefTest c imm op rn rd rest s
  | .and c sf rn rd op2 => Sys2Proof.Machine.execAnd c sf rn rd op2 s
  | .eor c sf rn rd op2 => Sys2Proof.Machine.execEor c sf rn rd op2 s
  | .sub c sf rn rd op2 => Sys2Proof.Machine.execSub c sf rn rd op2 s
  | .rsb c sf rn rd op2 => Sys2Proof.Machine.execRsb c sf rn rd op2 s
  | .add c sf rn rd op2 => Sys2Proof.Machine.execAdd c sf rn rd op2 s
  | .adc c sf rn rd op2 => Sys2Proof.Machine.execAdc c sf rn rd op2 s
  | .sbc c sf rn rd op2 => Sys2Proof.Machine.execSbc c sf rn rd op2 s
  | .rsc c sf rn rd op2 => Sys2Proof.Machine.execRsc c sf rn rd op2 s
  | .tst c rn rd op2 => Sys2Proof.Machine.execTst c rn rd op2 s
  | .teq c rn rd op2 => Sys2Proof.Machine.execTeq c rn rd op2 s
  | .cmp c rn rd op2 => Sys2Proof.Machine.execCmp c rn rd op2 s
  | .cmn c rn rd op2 => Sys2Proof.Machine.execCmn c rn rd op2 s
  | .orr c sf rn rd op2 => Sys2Proof.Machine.execOrr c sf rn rd op2 s
  | .mov c sf rn rd op2 => Sys2Proof.Machine.execMov c sf rn rd op2 s
  | .bic c sf rn rd op2 => Sys2Proof.Machine.execBic c sf rn rd op2 s
  | .mvn c sf rn rd op2 => Sys2Proof.Machine.execMvn c sf rn rd op2 s
  | .fallback c => Sys2Proof.Machine.execFallback c s

end Sys2Proof.Machine
end

