-- ==== Sys2Proof/Machine/Step.lean ====
section
/-! DEFINITION. One step of the block (40_dispatch R410, 60_exceptions R1020), the fault record it leaves (R1001), and
where a word to be executed is placed. Fetching, decoding and every check are called from the files before. -/

namespace Sys2Proof.Machine

/-- The word the next step fetches: 32 bits at `pc`, little-endian (40_dispatch R410). -/
def fetchWord (s : State) : Word := readWord s.mem s.pc

/-- What a fetched word does in ARM state: condition NV faults (40_dispatch R421), any other word runs its instruction.
A word is never too short (30_encoding R300). -/
def executeWord (w : Word) (s : State) : Result :=
  match decodeWord w with
  | .ok i => exec i s
  | .error _ => .fault (.unpredictable 421)

/-- `execute` (40_dispatch R410): no step after a fault, a refusal in Thumb state, else the fetched word. -/
def step (s : State) : Host.Outcome State Fault Refusal :=
  if s.fault.isSome then .refused .stopped
  else if s.cpsr.t then .refused .thumbState
  else executeWord (fetchWord s) s

/-- The state after a step as the spec keeps it (60_exceptions R1001, R1002, R1004, R1030): a fault or a refusal changes
nothing but the fault record, and a state with a record has no further step. -/
def transition (s : State) : State :=
  match step s with
  | .next t => t
  | .fault f => { s with fault := some { reason := .fault f, instr := some (fetchWord s), pc := s.pc } }
  | .refused .thumbState => { s with fault := some { reason := .thumbState, instr := none, pc := s.pc } }
  | .refused _ => s

/-- `s` with an instruction word placed where `step` fetches (70_reset R1103: the launch image is given from outside;
entry 19). The bits of `w` above `nbits` are 0. -/
def State.withFetchWord (s : State) (nbits w : Nat) : State :=
  { s with mem := writeBytes s.mem s.pc (wordBytes (tableWord nbits w)) }

end Sys2Proof.Machine
end

