-- ==== Sys2Proof/Safety.lean ====
section
/-! DEFINITION. The words statements about the machine are made of: when an instruction runs, what a run keeps, what a
state that a run reaches looks like, and what counts as a safe run. -/

namespace Sys2Proof.Machine

/-! ## When an instruction runs -/

/-- The registers an instruction touches (70_reset R1121). -/
def touched : Instr → List RegIdx
  | .mul _ _ rd _ rs rm => [rd, rm, rs]
  | .mla _ _ rd rn rs rm => [rd, rm, rs, rn]
  | .umull _ _ rdHi rdLo rs rm => [rdHi, rdLo, rm, rs]
  | .umlal _ _ rdHi rdLo rs rm => [rdHi, rdLo, rm, rs]
  | .smull _ _ rdHi rdLo rs rm => [rdHi, rdLo, rm, rs]
  | .smlal _ _ rdHi rdLo rs rm => [rdHi, rdLo, rm, rs]
  | .swp _ rn rd rm => [rn, rd, rm]
  | .swpb _ rn rd rm => [rn, rd, rm]
  | .bx _ rm => [rm]
  | .ldrh _ _ _ _ rn rd off => rn :: rd :: halfOffsetRegs off
  | .strh _ _ _ _ rn rd off => rn :: rd :: halfOffsetRegs off
  | .ldrsb _ _ _ _ rn rd off => rn :: rd :: halfOffsetRegs off
  | .ldrsh _ _ _ _ rn rd off => rn :: rd :: halfOffsetRegs off
  | .undefHalfword _ _ _ imm _ _ rn rd _ lo => undefHalfwordRegs imm rn rd lo
  | .undefSignedStore _ _ _ imm _ _ rn rd _ lo => undefHalfwordRegs imm rn rd lo
  | .undefTest _ imm _ rn _ rest => undefTestRegs imm rn rest
  | .undefGap .. | .fallback .. => []
  | .ldrt _ _ rn rd off => rn :: rd :: offsetRegs off
  | .strt _ _ rn rd off => rn :: rd :: offsetRegs off
  | .ldrbt _ _ rn rd off => rn :: rd :: offsetRegs off
  | .strbt _ _ rn rd off => rn :: rd :: offsetRegs off
  | .ldr _ _ _ _ rn rd off => rn :: rd :: offsetRegs off
  | .str _ _ _ _ rn rd off => rn :: rd :: offsetRegs off
  | .ldrb _ _ _ _ rn rd off => rn :: rd :: offsetRegs off
  | .strb _ _ _ _ rn rd off => rn :: rd :: offsetRegs off
  | .ldmRet _ _ _ _ rn list => rn :: namedRegs list
  | .ldmUser _ _ _ _ rn list => rn :: namedRegs list
  | .stmUser _ _ _ _ rn list => rn :: namedRegs list
  | .ldmia _ _ rn list => rn :: namedRegs list
  | .ldmib _ _ rn list => rn :: namedRegs list
  | .ldmda _ _ rn list => rn :: namedRegs list
  | .ldmdb _ _ rn list => rn :: namedRegs list
  | .stmia _ _ rn list => rn :: namedRegs list
  | .stmib _ _ rn list => rn :: namedRegs list
  | .stmda _ _ rn list => rn :: namedRegs list
  | .stmdb _ _ rn list => rn :: namedRegs list
  | .b _ _ => []
  | .bl _ _ => [14]
  | .ldc .. | .stc .. | .cdp .. | .mcr .. | .mrc .. | .swi .. => []
  | .mrs _ _ rd => [rd]
  | .msrReg _ _ _ _ rm => [rm]
  | .msrImm .. => []
  | .and _ _ rn rd op2 => rn :: rd :: operand2Regs op2
  | .eor _ _ rn rd op2 => rn :: rd :: operand2Regs op2
  | .sub _ _ rn rd op2 => rn :: rd :: operand2Regs op2
  | .rsb _ _ rn rd op2 => rn :: rd :: operand2Regs op2
  | .add _ _ rn rd op2 => rn :: rd :: operand2Regs op2
  | .adc _ _ rn rd op2 => rn :: rd :: operand2Regs op2
  | .sbc _ _ rn rd op2 => rn :: rd :: operand2Regs op2
  | .rsc _ _ rn rd op2 => rn :: rd :: operand2Regs op2
  | .tst _ rn _ op2 => rn :: operand2Regs op2
  | .teq _ rn _ op2 => rn :: operand2Regs op2
  | .cmp _ rn _ op2 => rn :: operand2Regs op2
  | .cmn _ rn _ op2 => rn :: operand2Regs op2
  | .orr _ _ rn rd op2 => rn :: rd :: operand2Regs op2
  | .mov _ _ _ rd op2 => rd :: operand2Regs op2
  | .bic _ _ rn rd op2 => rn :: rd :: operand2Regs op2
  | .mvn _ _ _ rd op2 => rd :: operand2Regs op2

/-- The flags that a condition reads hold values (40_dispatch R422). -/
def Decided (i : Instr) (s : State) : Prop := ∀ p ∈ condParts i.cond, p ∉ s.unwritten

/-- The condition can be read and passes, and the instruction meets no user-bank hazard (40_dispatch R410, 70_reset
R1121): its family's handler runs. -/
structure Ready (i : Instr) (s : State) : Prop where
  decided : Decided i s
  passes : condPass i.cond s.cpsr.flags = true
  noHazard : s.ldmUserHazard = true → ∀ r ∈ touched i, hazardReg r = false

/-- The instruction has a next state of which `P` holds. -/
def Completes (i : Instr) (s : State) (P : State → Prop) : Prop := ∃ t, exec i s = .next t ∧ P t

/-! ## What an instruction reads and gives a value (10_state R121) -/

/-- The parts of the SPSR that an opcode with Rd = R15 and S = 1 reads (60_exceptions R1070). -/
def returnParts (sf : Bool) (rd : RegIdx) (s : State) : List UnwrittenPart :=
  if sf = true ∧ rd = 15 then spsrParts s.cpsr.mode else []

/-- What operand 2 reads: Rm, Rs, and C for the rotate through carry, ROR by the immediate 0 (42_data R510 item 5,
41_shifter R452). -/
def operand2Reads (op2 : Operand2) (s : State) : List UnwrittenPart :=
  match op2 with
  | .imm .. => []
  | .shiftImm rm .ror amount => regParts [rm] s ++ if amount = 0#5 then [.flagC] else []
  | .shiftImm rm _ _ => regParts [rm] s
  | .shiftReg rm _ rs => regParts [rm, rs] s

/-- What a single-transfer offset reads, in the same way (46_single R753 item 3). -/
def offsetReads (off : Offset) (s : State) : List UnwrittenPart :=
  match off with
  | .imm _ => []
  | .reg rm ty amount => operand2Reads (.shiftImm rm ty amount) s

/-- What an instruction's result depends on, beside its condition (10_state R121, and item "unwritten" of 42_data R510,
43_multiply R604, R617, 44_status R650, R651, R662, 45_branch R720, 46_single R753, 47_halfword R806, R833, 48_block R858
and 60_exceptions R1070). -/
def dependsOn (i : Instr) (s : State) : List UnwrittenPart :=
  match i with
  | .and _ sf rn rd op2 | .eor _ sf rn rd op2 | .sub _ sf rn rd op2 | .rsb _ sf rn rd op2 | .add _ sf rn rd op2
  | .orr _ sf rn rd op2 | .bic _ sf rn rd op2 => regParts [rn] s ++ operand2Reads op2 s ++ returnParts sf rd s
  | .adc _ sf rn rd op2 | .sbc _ sf rn rd op2 | .rsc _ sf rn rd op2 =>
    regParts [rn] s ++ operand2Reads op2 s ++ [.flagC] ++ returnParts sf rd s
  | .mov _ sf _ rd op2 | .mvn _ sf _ rd op2 => operand2Reads op2 s ++ returnParts sf rd s
  | .tst _ rn _ op2 | .teq _ rn _ op2 | .cmp _ rn _ op2 | .cmn _ rn _ op2 => regParts [rn] s ++ operand2Reads op2 s
  | .mul _ _ _ _ rs rm | .umull _ _ _ _ rs rm | .smull _ _ _ _ rs rm => regParts [rm, rs] s
  | .mla _ _ _ rn rs rm => regParts [rm, rs, rn] s
  | .umlal _ _ rdHi rdLo rs rm | .smlal _ _ rdHi rdLo rs rm => regParts [rm, rs, rdHi, rdLo] s
  | .swp _ rn _ rm | .swpb _ rn _ rm => regParts [rn, rm] s
  | .bx _ rm => regParts [rm] s
  | .ldrh _ _ _ _ rn _ off | .ldrsb _ _ _ _ rn _ off | .ldrsh _ _ _ _ rn _ off =>
    regParts (rn :: halfOffsetRegs off) s
  | .strh _ _ _ _ rn rd off => regParts (rn :: rd :: halfOffsetRegs off) s
  | .ldr _ _ _ _ rn _ off | .ldrb _ _ _ _ rn _ off | .ldrt _ _ rn _ off | .ldrbt _ _ rn _ off =>
    regParts [rn] s ++ offsetReads off s
  | .str _ _ _ _ rn rd off | .strb _ _ _ _ rn rd off | .strt _ _ rn rd off | .strbt _ _ rn rd off =>
    regParts [rn, rd] s ++ offsetReads off s
  | .ldmia _ _ rn _ | .ldmib _ _ rn _ | .ldmda _ _ rn _ | .ldmdb _ _ rn _ => regParts [rn] s
  | .ldmRet _ _ _ _ rn _ => regParts [rn] s ++ spsrParts s.cpsr.mode
  | .ldmUser _ _ _ _ rn list => regParts [rn] s ++ if list = 0#16 then spsrParts s.cpsr.mode else []
  | .stmia _ _ rn list | .stmib _ _ rn list | .stmda _ _ rn list | .stmdb _ _ rn list => regParts (rn :: listRegs list) s
  | .stmUser _ _ _ _ rn list => regParts [rn] s ++ userParts (listRegs list)
  | .mrs _ .cpsr _ => flagParts
  | .mrs _ .spsr _ => spsrParts s.cpsr.mode
  | .msrReg _ _ _ _ rm => regParts [rm] s
  | .msrImm .. | .b .. | .bl .. | .swi .. | .ldc .. | .stc .. | .cdp .. | .mcr .. | .mrc .. | .undefHalfword ..
  | .undefSignedStore .. | .undefGap .. | .undefTest .. | .fallback .. => []

/-- Everything the instruction's result depends on holds a value. -/
def Written (i : Instr) (s : State) : Prop := ∀ p ∈ dependsOn i s, p ∉ s.unwritten

/-- The shifter carry-out is "C unchanged": rotate 0 of an immediate, LSL by the immediate 0, a register amount whose low
byte is 0 (41_shifter R451 to R453). -/
def carryUnchanged (op2 : Operand2) (s : State) : Bool :=
  match op2 with
  | .imm rot _ => decide (rot = 0#4)
  | .shiftImm _ .lsl amount => decide (amount = 0#5)
  | .shiftImm .. => false
  | .shiftReg _ _ rs => decide ((readReg s rs).toNat % 256 = 0)

/-- The flags the logical write of 42_data R505 gives a value: N and Z, and C unless the shifter leaves it; not V. -/
def logicalWrite (op2 : Operand2) (s : State) : List UnwrittenPart :=
  if carryUnchanged op2 s then [.flagN, .flagZ] else [.flagN, .flagZ, .flagC]

/-- The flags the arithmetic write of 42_data R504 gives a value, and a return that restores the CPSR (R541): all four. -/
def allFlags : List UnwrittenPart := [.flagN, .flagZ, .flagC, .flagV]

/-- The parts an instruction whose condition passes gives a value. -/
def gives (i : Instr) (s : State) : List UnwrittenPart :=
  match i with
  | .and _ sf _ rd op2 | .eor _ sf _ rd op2 | .orr _ sf _ rd op2 | .mov _ sf _ rd op2 | .bic _ sf _ rd op2
  | .mvn _ sf _ rd op2 => regParts [rd] s ++ if sf then if rd = 15 then allFlags else logicalWrite op2 s else []
  | .sub _ sf _ rd _ | .rsb _ sf _ rd _ | .add _ sf _ rd _ | .adc _ sf _ rd _ | .sbc _ sf _ rd _
  | .rsc _ sf _ rd _ => regParts [rd] s ++ if sf then allFlags else []
  | .tst _ _ _ op2 | .teq _ _ _ op2 => logicalWrite op2 s
  | .cmp .. | .cmn .. => allFlags
  | .mul _ sf rd _ _ _ | .mla _ sf rd _ _ _ => regParts [rd] s ++ if sf then [.flagN, .flagZ, .flagC] else []
  | .umull _ sf rdHi rdLo _ _ | .umlal _ sf rdHi rdLo _ _ | .smull _ sf rdHi rdLo _ _ | .smlal _ sf rdHi rdLo _ _ =>
    regParts [rdHi, rdLo] s ++ if sf then flagParts else []
  | .swp _ _ rd _ | .swpb _ _ rd _ => regParts [rd] s
  | .bl _ _ => regParts [14] s
  | .ldrh _ pre _ wback rn rd _ | .ldrsb _ pre _ wback rn rd _ | .ldrsh _ pre _ wback rn rd _ | .ldr _ pre _ wback rn rd _
  | .ldrb _ pre _ wback rn rd _ => regParts (if !pre || wback then [rd, rn] else [rd]) s
  | .ldrt _ _ rn rd _ | .ldrbt _ _ rn rd _ => regParts [rd, rn] s
  | .strh _ pre _ wback rn _ _ | .str _ pre _ wback rn _ _ | .strb _ pre _ wback rn _ _ =>
    regParts (if !pre || wback then [rn] else []) s
  | .strt _ _ rn _ _ | .strbt _ _ rn _ _ => regParts [rn] s
  | .ldmia _ wback rn list | .ldmib _ wback rn list | .ldmda _ wback rn list | .ldmdb _ wback rn list =>
    regParts (if wback then rn :: listRegs list else listRegs list) s
  | .ldmRet _ _ _ wback rn list => regParts (if wback then rn :: listRegs list else listRegs list) s ++ flagParts
  | .ldmUser _ _ _ wback rn list =>
    if list = 0#16 then regParts (if wback then [rn] else []) s ++ flagParts else userParts (listRegs list)
  | .stmia _ wback rn _ | .stmib _ wback rn _ | .stmda _ wback rn _ | .stmdb _ wback rn _ =>
    regParts (if wback then [rn] else []) s
  | .mrs _ _ rd => regParts [rd] s
  | .msrReg _ .cpsr fields _ _ | .msrImm _ .cpsr fields _ _ _ => if fields.flags then flagParts else []
  | .msrReg _ .spsr fields _ _ | .msrImm _ .spsr fields _ _ _ =>
    (if fields.flags then [.spsrFlags s.cpsr.mode] else []) ++
      if fields.ctrl then [.spsrControl s.cpsr.mode] else []
  | .swi .. => regPart .svc 14 ++ spsrParts .svc
  | .undefHalfword .. | .undefSignedStore .. | .undefGap .. | .undefTest .. | .ldc .. | .stc .. | .cdp .. | .mcr ..
  | .mrc .. | .fallback .. => regPart .und 14 ++ spsrParts .und
  | .b .. | .bx .. | .stmUser .. => []

/-- The faults decided by a computed value, the last class of 60_exceptions R1020: a misaligned `WritePC` (rule 112), a
misaligned BX target (721), the mode bits of a saved status (1070), the value of an MSR (662). An MSR from R15 raises 662
by its word. The numbers are those of entry 15. -/
def decidedByValue (i : Instr) (f : Fault) : Prop :=
  f = .unpredictable 112 ∨ f = .unpredictable 721 ∨ f = .unpredictable 1070 ∨
    (f = .unpredictable 662 ∧ ∀ c psr fields ignored, i ≠ .msrReg c psr fields ignored 15)

/-- The mode whose SPSR an instruction saves the flags into, where it enters an exception (60_exceptions R1061). -/
def savesInto : Instr → Option Mode
  | .swi .. => some .svc
  | .undefHalfword .. | .undefSignedStore .. | .undefGap .. | .undefTest .. | .ldc .. | .stc .. | .cdp .. | .mcr ..
  | .mrc .. | .fallback .. => some .und
  | _ => none

/-- The parts that User mode sees: its registers and the flags. -/
def UnwrittenPart.userSees (p : UnwrittenPart) : Prop :=
  p ∈ flagParts ∨ ∃ r q, view .usr r = some q ∧ p = .reg q

/-- Two states of the machine that agree in everything that holds a value: what stands in the fields of the parts without
one may differ. -/
structure SameWritten (s s' : State) : Prop where
  unwritten : s'.unwritten = s.unwritten
  regs : ∀ p, .reg p ∉ s.unwritten → s'.regs.get p = s.regs.get p
  n : .flagN ∉ s.unwritten → s'.cpsr.flags.n = s.cpsr.flags.n
  z : .flagZ ∉ s.unwritten → s'.cpsr.flags.z = s.cpsr.flags.z
  c : .flagC ∉ s.unwritten → s'.cpsr.flags.c = s.cpsr.flags.c
  v : .flagV ∉ s.unwritten → s'.cpsr.flags.v = s.cpsr.flags.v
  control : controlByte s'.cpsr = controlByte s.cpsr
  spsrFlags : ∀ m, .spsrFlags m ∉ s.unwritten → (spsrOf m s').map Spsr.flags = (spsrOf m s).map Spsr.flags
  spsrControl : ∀ m, .spsrControl m ∉ s.unwritten → (spsrOf m s').map Spsr.control = (spsrOf m s).map Spsr.control
  pc : s'.pc = s.pc
  mem : s'.mem = s.mem
  hazard : s'.ldmUserHazard = s.ldmUserHazard
  fault : s'.fault = s.fault
  completion : s'.armCompletion = s.armCompletion
  draws : s'.draws = s.draws

/-! ## What a run keeps -/

/-- The physical registers behind visible ones in the current view (10_state R103). -/
def physOf (s : State) (rs : List RegIdx) : List PhysReg := rs.filterMap (view s.cpsr.mode)

/-- The `n` byte addresses from `a` upwards, wrapping (20_memory R204). -/
def bytesFrom (a : Word) (n : Nat) : List Word := (List.range n).map fun k => a + BitVec.ofNat 32 k

/-- The bytes of the four-byte slots of a block transfer (48_block R851). -/
def slotBytes (start : Word) (list : BitVec 16) : List Word :=
  ((List.range (listRegs list).length).map fun k => bytesFrom (blockSlot start k) 4).flatten

/-- Every general register but those named, every byte of memory but those named, every SPSR, the fault record and the
setting of ARM_COMPLETION hold in `t` what they hold in `s`. -/
structure Kept (regs : List PhysReg) (bytes : List Word) (s t : State) : Prop where
  regs : ∀ p, p ∉ regs → t.regs.get p = s.regs.get p
  mem : ∀ a, a ∉ bytes → readByte t.mem a = readByte s.mem a
  spsr : ∀ m, spsrOf m t = spsrOf m s
  fault : t.fault = s.fault
  completion : t.armCompletion = s.armCompletion

/-- The control byte of the CPSR is unchanged and the hazard bit is clear. -/
structure Plain (s t : State) : Prop where
  i : t.cpsr.i = s.cpsr.i
  f : t.cpsr.f = s.cpsr.f
  thumb : t.cpsr.t = s.cpsr.t
  mode : t.cpsr.mode = s.cpsr.mode
  hazard : t.ldmUserHazard = false

/-- The result of an instruction that writes one visible register other than R15 and steps (40_dispatch R414). -/
structure Writes (rd : RegIdx) (v : Word) (flags : Flags) (s t : State) : Prop where
  result : readReg t rd = v
  flags : t.cpsr.flags = flags
  pc : t.pc = s.pc + 4#32
  kept : Kept (physOf s [rd]) [] s t
  plain : Plain s t

/-- The result of an instruction that writes the pc alone (40_dispatch R414). -/
structure Jumps (target : Word) (flags : Flags) (s t : State) : Prop where
  pc : t.pc = target
  flags : t.cpsr.flags = flags
  kept : Kept [] [] s t
  plain : Plain s t

/-- The result of an instruction that writes flags alone and steps. -/
structure Tests (flags : Flags) (s t : State) : Prop where
  flags : t.cpsr.flags = flags
  pc : t.pc = s.pc + 4#32
  kept : Kept [] [] s t
  plain : Plain s t

/-- The result of entering an exception (60_exceptions R1061, R1062): R14 and SPSR of the mode entered save the return
address and the CPSR, T is clear and IRQ masked, the pc is the vector, and nothing else changes. -/
structure Enters (vector : Word) (mode : Mode) (ret : Word) (f : Bool) (s t : State) : Prop where
  link : readRegIn mode t 14 = ret
  saved : spsrOf mode t = some ⟨s.cpsr.flags, controlByte s.cpsr⟩
  cpsr : t.cpsr = ⟨s.cpsr.flags, true, f, false, mode⟩
  pc : t.pc = vector
  regs : ∀ p, view mode 14 ≠ some p → t.regs.get p = s.regs.get p
  spsr : ∀ m, m ≠ mode → spsrOf m t = spsrOf m s
  mem : t.mem = s.mem
  fault : t.fault = s.fault
  completion : t.armCompletion = s.armCompletion

/-- The result of a return from an exception to `target` with the saved status `p` (42_data R541, 60_exceptions R1070);
`regs` names the registers the form loads or writes back. -/
structure Returns (target : Word) (p : Spsr) (regs : List PhysReg) (s t : State) : Prop where
  flags : t.cpsr.flags = p.flags
  control : controlByte t.cpsr = p.control
  pc : t.pc = if p.control.getLsbD 5 then target &&& ~~~1#32 else target
  kept : Kept regs [] s t
  hazard : t.ldmUserHazard = false

/-! ## What each instruction gives, read from its rule

The tables below say in the spec's arithmetic what the meanings compute with the machine's operations: a statement that an
instruction gives what its table row says compares two descriptions written apart. -/

/-- What an opcode that writes a result gives: its destination, S, the result and the flags it writes when S = 1. -/
structure DataSpec where
  rd : RegIdx
  sf : Bool
  value : Word
  flags : Flags
deriving DecidableEq, Repr

/-- Logical flags of a result (42_data R505). -/
def logicalSpec (v : Word) (sc : Bool) (s : State) : Flags := ⟨v.msb, decide (v = 0#32), sc, s.cpsr.flags.v⟩

/-- Arithmetic flags of a result: C as the rule gives it, V where the exact signed result is not the one narrowed
(42_data R502 to R504). -/
def arithSpec (v : Word) (carry : Prop) [Decidable carry] (exact : Int) : Flags :=
  ⟨v.msb, decide (v = 0#32), decide carry, decide (v.toInt ≠ exact)⟩

/-- CPSR.C as a number. -/
def carryNat (s : State) : Nat := if s.cpsr.flags.c then 1 else 0

/-- `a + b + n` with its flags. -/
def addSpec (rd : RegIdx) (sf : Bool) (a b : Word) (n : Nat) : DataSpec :=
  let v := BitVec.ofNat 32 (a.toNat + b.toNat + n)
  ⟨rd, sf, v, arithSpec v (2 ^ 32 ≤ a.toNat + b.toNat + n) (a.toInt + b.toInt + n)⟩

/-- `a - b - n` with its flags; C is "not borrow". -/
def subSpec (rd : RegIdx) (sf : Bool) (a b : Word) (n : Nat) : DataSpec :=
  let v := BitVec.ofInt 32 ((a.toNat : Int) - b.toNat - n)
  ⟨rd, sf, v, arithSpec v (b.toNat + n ≤ a.toNat) (a.toInt - b.toInt - n)⟩

/-- A logical result with its flags. -/
def bitwiseSpec (rd : RegIdx) (sf : Bool) (v : Word) (op2 : Operand2) (s : State) : DataSpec :=
  ⟨rd, sf, v, logicalSpec v (shiftOperand op2 s).carry s⟩

/-- The twelve opcodes that write a result (42_data R520 to R535, R542 to R549). -/
def dataSpec (i : Instr) (s : State) : Option DataSpec :=
  match i with
  | .and _ sf rn rd op2 => some (bitwiseSpec rd sf (readReg s rn &&& (shiftOperand op2 s).value) op2 s)
  | .eor _ sf rn rd op2 => some (bitwiseSpec rd sf (readReg s rn ^^^ (shiftOperand op2 s).value) op2 s)
  | .sub _ sf rn rd op2 => some (subSpec rd sf (readReg s rn) (shiftOperand op2 s).value 0)
  | .rsb _ sf rn rd op2 => some (subSpec rd sf (shiftOperand op2 s).value (readReg s rn) 0)
  | .add _ sf rn rd op2 => some (addSpec rd sf (readReg s rn) (shiftOperand op2 s).value 0)
  | .adc _ sf rn rd op2 => some (addSpec rd sf (readReg s rn) (shiftOperand op2 s).value (carryNat s))
  | .sbc _ sf rn rd op2 => some (subSpec rd sf (readReg s rn) (shiftOperand op2 s).value (1 - carryNat s))
  | .rsc _ sf rn rd op2 => some (subSpec rd sf (shiftOperand op2 s).value (readReg s rn) (1 - carryNat s))
  | .orr _ sf rn rd op2 => some (bitwiseSpec rd sf (readReg s rn ||| (shiftOperand op2 s).value) op2 s)
  | .mov _ sf _ rd op2 => some (bitwiseSpec rd sf (shiftOperand op2 s).value op2 s)
  | .bic _ sf rn rd op2 => some (bitwiseSpec rd sf (readReg s rn &&& ~~~(shiftOperand op2 s).value) op2 s)
  | .mvn _ sf _ rd op2 => some (bitwiseSpec rd sf (~~~(shiftOperand op2 s).value) op2 s)
  | _ => none

/-- The flags of the four test opcodes (42_data R528 to R531, R546, R547). -/
def testSpec (i : Instr) (s : State) : Option Flags :=
  match i with
  | .tst _ rn _ op2 => some (bitwiseSpec 0 true (readReg s rn &&& (shiftOperand op2 s).value) op2 s).flags
  | .teq _ rn _ op2 => some (bitwiseSpec 0 true (readReg s rn ^^^ (shiftOperand op2 s).value) op2 s).flags
  | .cmp _ rn _ op2 => some (subSpec 0 true (readReg s rn) (shiftOperand op2 s).value 0).flags
  | .cmn _ rn _ op2 => some (addSpec 0 true (readReg s rn) (shiftOperand op2 s).value 0).flags
  | _ => none

/-- Operand 2 of a data-processing instruction. -/
def operand2Of : Instr → Option Operand2
  | .and _ _ _ _ op2 | .eor _ _ _ _ op2 | .sub _ _ _ _ op2 | .rsb _ _ _ _ op2 | .add _ _ _ _ op2
  | .adc _ _ _ _ op2 | .sbc _ _ _ _ op2 | .rsc _ _ _ _ op2 | .tst _ _ _ op2 | .teq _ _ _ op2 | .cmp _ _ _ op2
  | .cmn _ _ _ op2 | .orr _ _ _ _ op2 | .mov _ _ _ _ op2 | .bic _ _ _ _ op2 | .mvn _ _ _ _ op2 => some op2
  | _ => none

/-- The register fields that R460 looks at: those an instruction touches, and the Rn field of MOV and MVN, which they do
not read; the Rd field of a test opcode is not among them (entry 12). -/
def shiftFields : Instr → List RegIdx
  | .mov c sf rn rd op2 => rn :: touched (.mov c sf rn rd op2)
  | .mvn c sf rn rd op2 => rn :: touched (.mvn c sf rn rd op2)
  | i => touched i

/-- R15 in a register-specified shift (41_shifter R460, entry 12). -/
def shiftsByPc (i : Instr) : Bool :=
  match operand2Of i with
  | some (.shiftReg ..) => (shiftFields i).contains 15
  | _ => false

/-- The classes that fault Unimplemented without ARM_COMPLETION, with their information (60_exceptions R1010 F1,
R1011). -/
def unimplementedAs : Instr → Option UnimplementedClass
  | .umull _ sf .. => some (.multiplyLong false false sf)
  | .umlal _ sf .. => some (.multiplyLong false true sf)
  | .smull _ sf .. => some (.multiplyLong true false sf)
  | .smlal _ sf .. => some (.multiplyLong true true sf)
  | .swp .. => some (.swap false)
  | .swpb .. => some (.swap true)
  | .ldrsh .. => some (.halfword true true)
  | .rsb _ sf .. => some (.dataProcessing 0b0011#4 sf)
  | .adc _ sf .. => some (.dataProcessing 0b0101#4 sf)
  | .sbc _ sf .. => some (.dataProcessing 0b0110#4 sf)
  | .rsc _ sf .. => some (.dataProcessing 0b0111#4 sf)
  | .teq .. => some (.dataProcessing 0b1001#4 true)
  | .cmn .. => some (.dataProcessing 0b1011#4 true)
  | .bic _ sf .. => some (.dataProcessing 0b1110#4 sf)
  | .mvn _ sf .. => some (.dataProcessing 0b1111#4 sf)
  | .swi .. => some .softwareInterrupt
  | .ldc .. => some (.coprocDataTransfer true)
  | .stc .. => some (.coprocDataTransfer false)
  | .cdp .. => some .coprocDataOperation
  | .mcr .. => some (.coprocRegisterTransfer false)
  | .mrc .. => some (.coprocRegisterTransfer true)
  | .fallback .. => some .fallback
  | _ => none

/-- The undefined encodings, with the family that matches them (60_exceptions R1010 F3, R1011). -/
def undefinedAs : Instr → Option Family
  | .undefHalfword .. | .undefSignedStore .. => some .halfword
  | .undefGap .. => some .undefinedGap
  | .undefTest .. => some .dataProcessing
  | _ => none

/-- The instructions that take the undefined-instruction exception under ARM_COMPLETION (49_unimplemented R915, R921,
R930). -/
def trapsUndefined : Instr → Bool
  | .undefHalfword .. | .undefSignedStore .. | .undefGap .. | .undefTest .. | .ldc .. | .stc .. | .cdp .. | .mcr ..
  | .mrc .. | .fallback .. => true
  | _ => false

/-- The exception-return forms (42_data R541, 48_block R880; with an empty list, entry 13). -/
def returnsFromException (i : Instr) (s : State) : Bool :=
  match i with
  | .ldmRet .. => true
  | .ldmUser _ _ _ _ _ list => list == 0#16
  | _ => ((dataSpec i s).any fun d => d.rd == 15 && d.sf)

/-- A class the source implements, or one with its completion: what `Ready` instructions need beside it. -/
def Implemented (i : Instr) (s : State) : Prop := s.armCompletion = true ∨ unimplementedAs i = none

/-- The long multiplies: RdHi, RdLo, S, Rm, Rs and the 64-bit result (43_multiply R611 to R615). -/
structure LongSpec where
  hi : RegIdx
  lo : RegIdx
  sf : Bool
  rm : RegIdx
  rs : RegIdx
  value : BitVec 64
deriving DecidableEq, Repr

/-- What each long multiply gives (43_multiply R612 to R615). -/
def longSpec (i : Instr) (s : State) : Option LongSpec :=
  let x := fun r => (readReg s r).toNat
  let y := fun r => (readReg s r).toInt
  match i with
  | .umull _ sf hi lo rs rm => some ⟨hi, lo, sf, rm, rs, BitVec.ofNat 64 (x rm * x rs)⟩
  | .umlal _ sf hi lo rs rm => some ⟨hi, lo, sf, rm, rs, BitVec.ofNat 64 (x rm * x rs + (2 ^ 32 * x hi + x lo))⟩
  | .smull _ sf hi lo rs rm => some ⟨hi, lo, sf, rm, rs, BitVec.ofInt 64 (y rm * y rs)⟩
  | .smlal _ sf hi lo rs rm => some ⟨hi, lo, sf, rm, rs, BitVec.ofInt 64 (y rm * y rs + (2 ^ 32 * y hi + x lo))⟩
  | _ => none

/-- The registers a long multiply may name together (43_multiply R617). -/
structure LongSpec.Legal (l : LongSpec) : Prop where
  pc : (15 : RegIdx) ∉ [l.hi, l.lo, l.rm, l.rs]
  hiLo : l.hi ≠ l.lo
  hiRm : l.hi ≠ l.rm
  loRm : l.lo ≠ l.rm

/-- The result of a long multiply: both halves, the flags, and the step (43_multiply R611, R616). -/
structure WritesLong (l : LongSpec) (flags : Flags) (s t : State) : Prop where
  hi : readReg t l.hi = l.value.extractLsb' 32 32
  lo : readReg t l.lo = l.value.extractLsb' 0 32
  flags : t.cpsr.flags = flags
  pc : t.pc = s.pc + 4#32
  kept : Kept (physOf s [l.hi, l.lo]) [] s t
  plain : Plain s t

/-- What an MSR writes: the PSR, fields f and c, and the source operand; none where Rm is R15 (44_status R660). -/
def msrSpec (i : Instr) (s : State) : Option (PsrSel × Bool × Bool × Word) :=
  match i with
  | .msrReg _ psr fields _ rm => if rm = 15 then none else some (psr, fields.flags, fields.ctrl, readReg s rm)
  | .msrImm _ psr fields _ rot imm8 =>
    some (psr, fields.flags, fields.ctrl, (imm8.setWidth 32).rotateRight (2 * rot.toNat))
  | _ => none

/-- A single or halfword transfer: base and data register, the address, the value the base moves to, whether it moves
(46_single R752), and the register offset if there is one. -/
structure TransferSpec where
  rn : RegIdx
  rd : RegIdx
  ix : Indexed
  off : List RegIdx
deriving DecidableEq, Repr

/-- The loads with the value each reads (20_memory R205). -/
def loadSpec (i : Instr) (s : State) : Option (TransferSpec × Word) :=
  let single := fun pre up wback rn rd off => TransferSpec.mk rn rd (singleAddress pre up wback rn off s) (offsetRegs off)
  let half := fun pre up wback rn rd off =>
    TransferSpec.mk rn rd (halfwordAddress pre up wback rn off s) (halfOffsetRegs off)
  match i with
  | .ldr _ pre up wback rn rd off =>
    let x := single pre up wback rn rd off; some (x, readRotateWord s.mem x.ix.addr)
  | .ldrb _ pre up wback rn rd off =>
    let x := single pre up wback rn rd off; some (x, readZeroByte s.mem x.ix.addr)
  | .ldrt _ up rn rd off => let x := single false up true rn rd off; some (x, readRotateWord s.mem x.ix.addr)
  | .ldrbt _ up rn rd off => let x := single false up true rn rd off; some (x, readZeroByte s.mem x.ix.addr)
  | .ldrh _ pre up wback rn rd off =>
    let x := half pre up wback rn rd off; some (x, readRotateHalf s.mem x.ix.addr)
  | .ldrsb _ pre up wback rn rd off =>
    let x := half pre up wback rn rd off; some (x, readSignedByte s.mem x.ix.addr)
  | .ldrsh _ pre up wback rn rd off =>
    let x := half pre up wback rn rd off; some (x, readSignedHalf s.mem x.ix.addr)
  | _ => none

/-- The stores with the address of the first byte and the number of bytes each writes (20_memory R205, R208). -/
def storeSpec (i : Instr) (s : State) : Option (TransferSpec × Word × Nat) :=
  let single := fun pre up wback rn rd off => TransferSpec.mk rn rd (singleAddress pre up wback rn off s) (offsetRegs off)
  match i with
  | .str _ pre up wback rn rd off => let x := single pre up wback rn rd off; some (x, alignWord x.ix.addr, 4)
  | .strb _ pre up wback rn rd off => let x := single pre up wback rn rd off; some (x, x.ix.addr, 1)
  | .strt _ up rn rd off => let x := single false up true rn rd off; some (x, alignWord x.ix.addr, 4)
  | .strbt _ up rn rd off => let x := single false up true rn rd off; some (x, x.ix.addr, 1)
  | .strh _ pre up wback rn rd off =>
    let x := TransferSpec.mk rn rd (halfwordAddress pre up wback rn off s) (halfOffsetRegs off)
    some (x, alignHalf x.ix.addr, 2)
  | _ => none

/-- What a store writes for a register: R15 stores pc + 12 (10_state R111). -/
def storedSpec (s : State) (r : RegIdx) : Word := if r = 15 then s.pc + 12#32 else readReg s r

/-- The registers a transfer may use as it does: no R15 offset register, no writeback to R15 (46_single R753, 47_halfword
R802, R803). -/
structure TransferSpec.Legal (x : TransferSpec) : Prop where
  off : (15 : RegIdx) ∉ x.off
  base : x.ix.wb = true → x.rn ≠ 15

/-- No byte of a store is one of the two words after the instruction (70_reset R1120). -/
def ClearOfPrefetch (pc : Word) (bytes : List Word) : Prop := ∀ a ∈ bytes, 8 ≤ (a - (pc + 4#32)).toNat

/-- P, U, W, Rn and the list of a plain block transfer. -/
structure BlockSpec where
  pre : Bool
  up : Bool
  wback : Bool
  rn : RegIdx
  list : BitVec 16
deriving DecidableEq, Repr

/-- The start address of a block (48_block R851). -/
def BlockSpec.start (b : BlockSpec) (s : State) : Word := blockStart b.pre b.up (readReg s b.rn) (listSpan b.list)

/-- The final base value of a block (48_block R851). -/
def BlockSpec.final (b : BlockSpec) (s : State) : Word := blockFinal b.up (readReg s b.rn) (listSpan b.list)

/-- The LDMs of the current bank (48_block R870 to R873). -/
def ldmSpec : Instr → Option BlockSpec
  | .ldmia _ wback rn list => some ⟨false, true, wback, rn, list⟩
  | .ldmib _ wback rn list => some ⟨true, true, wback, rn, list⟩
  | .ldmda _ wback rn list => some ⟨false, false, wback, rn, list⟩
  | .ldmdb _ wback rn list => some ⟨true, false, wback, rn, list⟩
  | _ => none

/-- The STMs of the current bank (48_block R874 to R877). -/
def stmSpec : Instr → Option BlockSpec
  | .stmia _ wback rn list => some ⟨false, true, wback, rn, list⟩
  | .stmib _ wback rn list => some ⟨true, true, wback, rn, list⟩
  | .stmda _ wback rn list => some ⟨false, false, wback, rn, list⟩
  | .stmdb _ wback rn list => some ⟨true, false, wback, rn, list⟩
  | _ => none

/-- The LDM exception returns (48_block R880; with an empty list, entry 13). -/
def ldmReturnSpec : Instr → Option BlockSpec
  | .ldmRet _ pre up wback rn list => some ⟨pre, up, wback, rn, list⟩
  | .ldmUser _ pre up wback rn list => if list = 0#16 then some ⟨pre, up, wback, rn, list⟩ else none
  | _ => none

/-! ## States and runs -/

/-- What every step keeps: memory in canonical form, each part marked as without a value at most once, and a pc that the
instruction set of CPSR.T can execute from (10_state R113, 45_branch R720). -/
structure State.Inv (s : State) : Prop where
  wf : Memory.wf s.mem = true
  marks : s.unwritten.Nodup
  armPc : s.cpsr.t = false → s.pc.extractLsb' 0 2 = 0#2
  thumbPc : s.cpsr.t = true → s.pc.getLsbD 0 = false

/-- A state of the normative setting (00_scope R9): ARM_COMPLETION is false. -/
def State.normative (s : State) : Prop := s.armCompletion = false

/-- The next state of a step, if it has one. -/
def stepOk (s : State) : Option State :=
  match step s with
  | .next t => some t
  | .fault _ => none
  | .refused _ => none

/-- A safe run: `k` steps from `s` all complete, ending in the state given (60_exceptions R1000, R1124: "A program for
which no run reaches a fault has the meaning these rules give it"). -/
def runs : Nat → State → Option State
  | 0, s => some s
  | k + 1, s =>
    match stepOk s with
    | some t => runs k t
    | none => none

end Sys2Proof.Machine
end

