-- ==== Sys2Proof/Certificates/Slice0/Obligations.lean ====
section
/-! DEFINITION. The statements for the provers. Each docstring says what the statement formalises and what it rests on. -/

section

open Sys2Proof Sys2Proof.Machine

/-- For every launch image and either setting of ARM_COMPLETION, the state after reset is in Supervisor mode with I = 1,
F = 1, T = 0 and pc = 0, the hazard bit clear, no fault record, memory the launch image and the setting as chosen.
State.reset is that state with ARM_COMPLETION false, its default, and nothing listed in memory (the model's choice,
entry 6); that every part holds a value there is the model's choice too (entries 2 to 5), and the values are not
stated here. State.resetUnwritten is the reset of the spec as written: the same state, with every general register,
every flag and every SPSR part unwritten. [10_state.md section 7; 70_reset_and_hazards.md section 1; 00_scope.md
section 4] -/
def Obligations.ResetState : Prop :=
  ∀ (completion : Bool) (image : Memory),
    (State.resetWith completion image).cpsr.mode = .svc ∧
    (State.resetWith completion image).cpsr.i = true ∧
    (State.resetWith completion image).cpsr.f = true ∧
    (State.resetWith completion image).cpsr.t = false ∧
    (State.resetWith completion image).pc = 0#32 ∧
    (State.resetWith completion image).ldmUserHazard = false ∧
    (State.resetWith completion image).fault = none ∧
    (State.resetWith completion image).mem = image ∧
    (State.resetWith completion image).armCompletion = completion ∧
    State.reset = State.resetWith false [] ∧
    (∀ q, .reg q ∈ (State.resetUnwritten completion image).unwritten) ∧
    (∀ p ∈ flagParts, p ∈ (State.resetUnwritten completion image).unwritten) ∧
    (∀ m, m ≠ .usr → m ≠ .sys →
      .spsrFlags m ∈ (State.resetUnwritten completion image).unwritten ∧
        .spsrControl m ∈ (State.resetUnwritten completion image).unwritten) ∧
    { State.resetUnwritten completion image with unwritten := [] } = State.resetWith completion image

/-- State.reset meets the invariant (memory in canonical form, no part marked as unwritten twice, the pc word-aligned in
ARM state and with bit 0 clear in Thumb state), and so does reset with any launch image in canonical form in either
setting of ARM_COMPLETION, with every part written or with every part unwritten. After State.reset every part holds a
value (the model's choice, entry 5). [10_state.md section 4; 70_reset_and_hazards.md section 1] -/
def Obligations.InvariantHoldsAtReset : Prop :=
  State.reset.Inv ∧ State.reset.unwritten = [] ∧
    ∀ (completion : Bool) (image : Memory), Memory.wf image = true →
      (State.resetWith completion image).Inv ∧ (State.resetUnwritten completion image).Inv

/-- For every state that meets the invariant, reachable or not: if step answers a next state, that state has memory in
canonical form, no part marked twice, a word-aligned pc when CPSR.T = 0, and a pc with bit 0 clear when CPSR.T = 1.
If every part holds a value, as after State.reset, no step faults UnwrittenRead and every part holds a value after
it. [10_state.md section 4; 10_state.md section 6; 20_memory.md section 1] -/
def Obligations.StepKeepsInvariant : Prop :=
  (∀ s t : State, s.Inv → step s = .next t → t.Inv) ∧
    ∀ s : State, s.unwritten = [] →
      (∀ t, step s = .next t → t.unwritten = []) ∧ ∀ p, step s ≠ .fault (.unwrittenRead p)

/-- When no fault is recorded and CPSR.T = 0, and the four bytes at pc, pc+1, pc+2 and pc+3 decode to a well-formed
instruction i, the step is exec of i at that state: step adds nothing around exec. [40_dispatch.md section 2;
20_memory.md section 1] -/
def Obligations.StepRunsDecodedInstruction : Prop :=
  ∀ (s : State) (i : Instr), s.fault = none → s.cpsr.t = false → i.wellFormed = true →
    decode [readByte s.mem s.pc, readByte s.mem (s.pc + 1#32), readByte s.mem (s.pc + 2#32),
        readByte s.mem (s.pc + 3#32)] = .ok (i, []) →
      step s = exec i s

/-- If the step faults with f, the state kept is the old one with the fault record set to f, the fetched instruction word
and the old pc. In Thumb state with no record the step is the refusal ThumbState and the record has no instruction
word. A state with a record has no step and stays as it is. That a fault answers the fault alone beside the next
state transition gives, and that a state with a record answers the refusal stopped, is the model's form (entry 10).
[R1001; R1030; R1004] -/
def Obligations.FaultSetsTheRecordAlone : Prop :=
  ∀ s : State,
    (∀ f, step s = .fault f →
      transition s = { s with fault := some { reason := .fault f, instr := some (fetchWord s), pc := s.pc } }) ∧
    (s.fault = none → s.cpsr.t = true →
      step s = .refused .thumbState ∧
        transition s = { s with fault := some { reason := .thumbState, instr := none, pc := s.pc } }) ∧
    (s.fault ≠ none → step s = .refused .stopped ∧ transition s = s)

/-- In ARM state with no recorded fault, if bits 31:28 of the fetched word are 1111, the step faults Unpredictable
whatever the rest of the word holds, and the record keeps the instruction word. [R343; R421] -/
def Obligations.ConditionNvFaults : Prop :=
  ∀ s : State, s.fault = none → s.cpsr.t = false → (readByte s.mem (s.pc + 3#32)).extractLsb' 4 4 = 0b1111#4 →
    step s = .fault (.unpredictable 421) ∧
      transition s =
        { s with fault := some { reason := .fault (.unpredictable 421), instr := some (fetchWord s), pc := s.pc } }

/-- For every well-formed instruction, of every family and with every operand at every value its encoding admits, the
four bytes of its word followed by any bytes decode to that instruction and leave the rest. [30_encoding.md sections
1 to 3; 40_dispatch.md section 1] -/
def Obligations.DecodeEncodeAgree : Prop :=
  ∀ (i : Instr) (rest : List Byte), i.wellFormed = true → decode (wordBytes (encode i) ++ rest) = .ok (i, rest)

/-- A word either has condition 0b1111, and the decoder refuses it by that name, or it decodes to a well-formed
instruction whose condition has the word's code; no well-formed instruction is the fallback, so no word reaches the
fallback entry. That the decoder is where condition 0b1111 is refused, which the spec checks in the dispatcher, is
the model's reading (entry 11), as is the fallback's having no word (entry 14). [30_encoding.md sections 2 and 4;
40_dispatch.md sections 1 and 3] -/
def Obligations.EveryWordDecodes : Prop :=
  ∀ w : Word,
    (field w 28 4 = 0b1111#4 ∧ decodeWord w = .error .conditionNv) ∨
      ∃ i, decodeWord w = .ok i ∧ i.wellFormed = true ∧ i.cond.code = field w 28 4 ∧ ∀ c, i ≠ .fallback c

/-- Whatever the should-be fields hold, BX (19:8), SWP and SWPB (11:8), MRS (19:16, 11:8, 3:0), MSR register (15:8), MSR
immediate (15:12) and the register-offset halfword transfers (11:8) decode to the same instruction. Bits 7:4 of MRS
and MSR register belong to the dispatch pattern. Bits 18:17 of an MSR field mask are ignored: that the instruction
keeps them, for the assembler text, is the model's choice (entry 20), and whatever they hold it has the same outcome
in every state. [30_encoding.md sections 1, 3 and 4; 44_status_transfer.md section 2] -/
def Obligations.ShouldBeFieldsIgnored : Prop :=
  ∀ c : Cond,
    (∀ (x : BitVec 12) (rm : RegIdx),
      decodeWord (put 28 c.code ||| put 20 0b00010010#8 ||| put 8 x ||| put 4 1#4 ||| putReg 0 rm) = .ok (.bx c rm)) ∧
    (∀ (x : BitVec 4) (rn rd rm : RegIdx),
      decodeWord (put 28 c.code ||| put 20 0b00010000#8 ||| putReg 16 rn ||| putReg 12 rd ||| put 8 x ||| put 4 9#4 |||
          putReg 0 rm) = .ok (.swp c rn rd rm) ∧
        decodeWord (put 28 c.code ||| put 20 0b00010100#8 ||| putReg 16 rn ||| putReg 12 rd ||| put 8 x ||| put 4 9#4 |||
          putReg 0 rm) = .ok (.swpb c rn rd rm)) ∧
    (∀ (psr : PsrSel) (x y z : BitVec 4) (rd : RegIdx),
      decodeWord (put 28 c.code ||| put 23 0b00010#5 ||| putBit 22 psr.bit ||| put 16 x ||| putReg 12 rd ||| put 8 y |||
          put 0 z) = .ok (.mrs c psr rd)) ∧
    (∀ (psr : PsrSel) (ff cf : Bool) (x : BitVec 2) (y : BitVec 8) (rm : RegIdx),
      decodeWord (put 28 c.code ||| put 23 0b00010#5 ||| putBit 22 psr.bit ||| putBit 21 true ||| putBit 19 ff |||
          put 17 x ||| putBit 16 cf ||| put 8 y ||| putReg 0 rm) = .ok (.msrReg c psr ⟨ff, cf⟩ x rm)) ∧
    (∀ (psr : PsrSel) (ff cf : Bool) (x : BitVec 2) (y rot : BitVec 4) (imm8 : BitVec 8),
      decodeWord (put 28 c.code ||| put 23 0b00110#5 ||| putBit 22 psr.bit ||| putBit 21 true ||| putBit 19 ff |||
          put 17 x ||| putBit 16 cf ||| put 12 y ||| put 8 rot ||| put 0 imm8) =
        .ok (.msrImm c psr ⟨ff, cf⟩ x rot imm8)) ∧
    (∀ (psr : PsrSel) (fields : MsrFields) (x y : BitVec 2) (rm : RegIdx) (rot : BitVec 4) (imm8 : BitVec 8) (s : State),
      exec (.msrReg c psr fields x rm) s = exec (.msrReg c psr fields y rm) s ∧
        exec (.msrImm c psr fields x rot imm8) s = exec (.msrImm c psr fields y rot imm8) s) ∧
    (∀ (pre up wback : Bool) (x : BitVec 4) (rn rd rm : RegIdx),
      let w := fun load sh => put 28 c.code ||| putBit 24 pre ||| putBit 23 up ||| putBit 21 wback ||| putBit 20 load |||
        putReg 16 rn ||| putReg 12 rd ||| put 8 x ||| putBit 7 true ||| put 5 (sh : BitVec 2) ||| putBit 4 true |||
        putReg 0 rm
      decodeWord (w true 0b01#2) = .ok (.ldrh c pre up wback rn rd (.reg rm)) ∧
        decodeWord (w false 0b01#2) = .ok (.strh c pre up wback rn rd (.reg rm)) ∧
        decodeWord (w true 0b10#2) = .ok (.ldrsb c pre up wback rn rd (.reg rm)) ∧
        decodeWord (w true 0b11#2) = .ok (.ldrsh c pre up wback rn rd (.reg rm)))

/-- Twelve words that the spec writes out beside their assembler text decode to those instructions: AND, EORS with a
shift, MUL, UMULL, SWP, BX, LDRH, LDR with writeback, STMDB, BL, MRS and MSR immediate. [42_data_processing.md
section 2; 43_multiply.md; 44_status_transfer.md; 45_branch.md; 46_single_transfer.md section 2; 47_halfword_swap.md;
48_block_transfer.md section 2] -/
def Obligations.ExampleWordsDecode : Prop :=
  decodeWord 0xE0010002#32 = .ok (.and .al false 1 0 (.shiftImm 2 .lsl 0#5)) ∧
    decodeWord 0xE0310202#32 = .ok (.eor .al true 1 0 (.shiftImm 2 .lsl 4#5)) ∧
    decodeWord 0xE0000291#32 = .ok (.mul .al false 0 0 2 1) ∧
    decodeWord 0xE0810392#32 = .ok (.umull .al false 1 0 3 2) ∧
    decodeWord 0xE1020091#32 = .ok (.swp .al 2 0 1) ∧
    decodeWord 0xE12FFF1E#32 = .ok (.bx .al 14) ∧
    decodeWord 0xE1D100B2#32 = .ok (.ldrh .al true true false 1 0 (.imm 2#8)) ∧
    decodeWord 0xE5B10004#32 = .ok (.ldr .al true true true 1 0 (.imm 4#12)) ∧
    decodeWord 0xE92D4010#32 = .ok (.stmdb .al true 13 0x4010#16) ∧
    decodeWord 0xEB00003E#32 = .ok (.bl .al 0x3E#24) ∧
    decodeWord 0xE10F0000#32 = .ok (.mrs .al .cpsr 0) ∧
    decodeWord 0xE328F20F#32 = .ok (.msrImm .al .cpsr ⟨true, false⟩ 0#2 2#4 0x0F#8)

/-- The fifteen codes 0000 to 1110 name the conditions EQ to AL in order and 1111 names none; each condition passes
exactly when the flags meet its row of the table, and the flags it reads are those of the row's last column. [R420] -/
def Obligations.ConditionTable : Prop :=
  ∀ f : Flags,
    (condOf 0b0000#4 = some .eq ∧ (condPass .eq f = true ↔ f.z = true)) ∧
    (condOf 0b0001#4 = some .ne ∧ (condPass .ne f = true ↔ f.z = false)) ∧
    (condOf 0b0010#4 = some .cs ∧ (condPass .cs f = true ↔ f.c = true)) ∧
    (condOf 0b0011#4 = some .cc ∧ (condPass .cc f = true ↔ f.c = false)) ∧
    (condOf 0b0100#4 = some .mi ∧ (condPass .mi f = true ↔ f.n = true)) ∧
    (condOf 0b0101#4 = some .pl ∧ (condPass .pl f = true ↔ f.n = false)) ∧
    (condOf 0b0110#4 = some .vs ∧ (condPass .vs f = true ↔ f.v = true)) ∧
    (condOf 0b0111#4 = some .vc ∧ (condPass .vc f = true ↔ f.v = false)) ∧
    (condOf 0b1000#4 = some .hi ∧ (condPass .hi f = true ↔ f.c = true ∧ f.z = false)) ∧
    (condOf 0b1001#4 = some .ls ∧ (condPass .ls f = true ↔ f.c = false ∨ f.z = true)) ∧
    (condOf 0b1010#4 = some .ge ∧ (condPass .ge f = true ↔ f.n = f.v)) ∧
    (condOf 0b1011#4 = some .lt ∧ (condPass .lt f = true ↔ f.n ≠ f.v)) ∧
    (condOf 0b1100#4 = some .gt ∧ (condPass .gt f = true ↔ f.z = false ∧ f.n = f.v)) ∧
    (condOf 0b1101#4 = some .le ∧ (condPass .le f = true ↔ f.z = true ∨ f.n ≠ f.v)) ∧
    (condOf 0b1110#4 = some .al ∧ condPass .al f = true) ∧
    (∀ p, p ∈ condParts .eq ↔ p = .flagZ) ∧
    (∀ p, p ∈ condParts .ne ↔ p = .flagZ) ∧
    (∀ p, p ∈ condParts .cs ↔ p = .flagC) ∧
    (∀ p, p ∈ condParts .cc ↔ p = .flagC) ∧
    (∀ p, p ∈ condParts .mi ↔ p = .flagN) ∧
    (∀ p, p ∈ condParts .pl ↔ p = .flagN) ∧
    (∀ p, p ∈ condParts .vs ↔ p = .flagV) ∧
    (∀ p, p ∈ condParts .vc ↔ p = .flagV) ∧
    (∀ p, p ∈ condParts .hi ↔ p = .flagC ∨ p = .flagZ) ∧
    (∀ p, p ∈ condParts .ls ↔ p = .flagC ∨ p = .flagZ) ∧
    (∀ p, p ∈ condParts .ge ↔ p = .flagN ∨ p = .flagV) ∧
    (∀ p, p ∈ condParts .lt ↔ p = .flagN ∨ p = .flagV) ∧
    (∀ p, p ∈ condParts .gt ↔ p = .flagZ ∨ p = .flagN ∨ p = .flagV) ∧
    (∀ p, p ∈ condParts .le ↔ p = .flagZ ∨ p = .flagN ∨ p = .flagV) ∧
    (∀ p, p ∈ condParts .al ↔ False) ∧
    condOf 0b1111#4 = none

/-- For every instruction and every state: if a flag that the condition reads is unwritten, exec faults UnwrittenRead
with such a flag, whatever the instruction; if all of them hold values and the condition fails, exec answers the old
state with pc + 4 and the hazard bit clear, and nothing else changed. [R413; R422] -/
def Obligations.FailedConditionOnlySteps : Prop :=
  (∀ (i : Instr) (s : State), (∃ p ∈ condParts i.cond, p ∈ s.unwritten) →
    ∃ p ∈ condParts i.cond, p ∈ s.unwritten ∧ exec i s = .fault (.unwrittenRead p)) ∧
  (∀ (i : Instr) (s : State), Decided i s → condPass i.cond s.cpsr.flags = false →
    exec i s = .next { s with pc := s.pc + 4#32, ldmUserHazard := false })

/-- With the hazard bit set: an instruction whose condition can be read and passes and which touches a register numbered
8 to 14 faults LdmUserBankHazard with such a register; one that touches none, or whose condition fails, does what it
does with the bit clear. Whatever the state, only a user-bank LDM leaves the bit set. That the undefined words of the
halfword and data-processing families touch the registers of their family's row is the model's reading (entry 27).
[70_reset_and_hazards.md section 3; 40_dispatch.md section 2; 10_state.md section 5] -/
def Obligations.UserBankHazard : Prop :=
  (∀ (i : Instr) (s : State), s.ldmUserHazard = true → Decided i s →
    condPass i.cond s.cpsr.flags = true →
    (∃ r ∈ touched i, 8 ≤ r.val ∧ r.val ≤ 14) →
      ∃ r ∈ touched i, 8 ≤ r.val ∧ r.val ≤ 14 ∧ exec i s = .fault (.ldmUserBankHazard r)) ∧
  (∀ (i : Instr) (s : State),
    condPass i.cond s.cpsr.flags = false ∨ (∀ r ∈ touched i, ¬(8 ≤ r.val ∧ r.val ≤ 14)) →
      exec i s = exec i { s with ldmUserHazard := false }) ∧
  (∀ (i : Instr) (s t : State), exec i s = .next t → t.ldmUserHazard = true →
    ∃ c pre up wback rn list, i = .ldmUser c pre up wback rn list)

/-- Writing a word, a halfword or a byte at any address sets byte a+k (the sum wrapping) to bits 8k+7:8k of the value,
changes no byte outside, and keeps memory in canonical form. [R204] -/
def Obligations.MemoryWriteBytes : Prop :=
  ∀ (m : Memory) (a : Word) (w : Word) (h : BitVec 16) (b : Byte),
    (∀ k < 4, readByte (writeBytes m a (wordBytes w)) (a + BitVec.ofNat 32 k) = w.extractLsb' (8 * k) 8) ∧
    (∀ k < 2, readByte (writeBytes m a (halfBytes h)) (a + BitVec.ofNat 32 k) = h.extractLsb' (8 * k) 8) ∧
    readByte (writeBytes m a [b]) a = b ∧
    (∀ x ∉ bytesFrom a 4, readByte (writeBytes m a (wordBytes w)) x = readByte m x) ∧
    (∀ x ∉ bytesFrom a 2, readByte (writeBytes m a (halfBytes h)) x = readByte m x) ∧
    (∀ x, x ≠ a → readByte (writeBytes m a [b]) x = readByte m x) ∧
    (Memory.wf m = true → Memory.wf (writeBytes m a (wordBytes w)) = true ∧
      Memory.wf (writeBytes m a (halfBytes h)) = true ∧ Memory.wf (writeBytes m a [b]) = true)

/-- Bits 8k+7:8k of a word or halfword read at a are the byte at a+k, the sum wrapping modulo 2^32; so a word or a
halfword written at a reads back as it was written. [R203] -/
def Obligations.MemoryReadBytes : Prop :=
  ∀ (m : Memory) (a : Word),
    (∀ k < 4, (readWord m a).extractLsb' (8 * k) 8 = readByte m (a + BitVec.ofNat 32 k)) ∧
    (∀ k < 2, (readHalf m a).extractLsb' (8 * k) 8 = readByte m (a + BitVec.ofNat 32 k)) ∧
    (∀ w, readWord (writeBytes m a (wordBytes w)) a = w) ∧
    (∀ h, readHalf (writeBytes m a (halfBytes h)) a = h)

/-- ReadRotate of a word is the aligned word rotated right by 8 times the low two address bits, of a halfword the zero-
extended aligned halfword rotated right by 8 at an odd address, which is (h >> 8) OR (h[7:0] << 24); ReadSignedHalf
is the sign-extended halfword at an even address and the sign-extended byte at an odd one; byte reads extend with
zeros or the sign. [R206; R207; R210] -/
def Obligations.RotatedAndExtendedReads : Prop :=
  ∀ (m : Memory) (a : Word),
    readRotateWord m a = (readWord m (a &&& 0xFFFFFFFC#32)).rotateRight (8 * (a.toNat % 4)) ∧
    readRotateHalf m a = ((readHalf m (a &&& 0xFFFFFFFE#32)).setWidth 32).rotateRight (8 * (a.toNat % 2)) ∧
    (a.getLsbD 0 = true → readRotateHalf m a =
      ((readHalf m (a - 1#32)).setWidth 32 >>> 8) ||| (((readHalf m (a - 1#32)).extractLsb' 0 8).setWidth 32 <<< 24)) ∧
    (readSignedHalf m a).toInt = (if a.getLsbD 0 then (readByte m a).toInt else (readHalf m a).toInt) ∧
    (readSignedByte m a).toInt = (readByte m a).toInt ∧
    (readZeroByte m a).toNat = (readByte m a).toNat

/-- R15 alone is no banked register. Two visible registers of two modes are the same physical register exactly when they
have the same number and it is R0 to R7, or R8 to R12 with both or neither mode FIQ, or R13 or R14 with the same
mode, User and System counting as one; every physical register is visible in some mode. A register read after a write
of a register, in any two views, gives the value written exactly when both name the same physical register. R15 reads
pc + 8 in every view. [R103] -/
def Obligations.RegisterViews : Prop :=
  (∀ (m : Mode) (r : RegIdx), view m r = none ↔ r = 15) ∧
  (∀ p : PhysReg, ∃ m r, view m r = some p) ∧
  (∀ (m n : Mode) (r q : RegIdx), r ≠ 15 →
    (view m r = view n q ↔
      r = q ∧ (r.val ≤ 7 ∨ (8 ≤ r.val ∧ r.val ≤ 12 ∧ (m = .fiq ↔ n = .fiq)) ∨
        (13 ≤ r.val ∧ (m = n ∨ ((m = .usr ∨ m = .sys) ∧ (n = .usr ∨ n = .sys))))))) ∧
  (∀ (m n : Mode) (r q : RegIdx) (v : Word) (s : State), r ≠ 15 →
    readRegIn n (writeRegIn m r v s) q = if view m r = view n q then v else readRegIn n s q) ∧
  (∀ (m : Mode) (s : State), readRegIn m s 15 = s.pc + 8#32)

/-- The operand is the zero-extended 8-bit immediate rotated right by 2*rot; the shifter carry-out is CPSR.C when rot = 0
and bit 31 of the operand otherwise. [R451] -/
def Obligations.RotatedImmediateOperand : Prop :=
  ∀ (rot : BitVec 4) (imm8 : BitVec 8) (s : State),
    (shiftOperand (.imm rot imm8) s).value = (imm8.setWidth 32).rotateRight (2 * rot.toNat) ∧
    (shiftOperand (.imm rot imm8) s).carry =
      if rot = 0#4 then s.cpsr.flags.c else (shiftOperand (.imm rot imm8) s).value.getLsbD 31

/-- LSL by 0 passes the register and the carry, LSR and ASR by 0 shift by 32, ROR by 0 is the rotate through carry; an
amount 1 to 31 shifts by it, and the carry-out is the last bit shifted out. Rm = R15 reads pc + 8. [41_shifter.md
section 2] -/
def Obligations.ImmediateShiftOperand : Prop :=
  ∀ (rm : RegIdx) (n : BitVec 5) (s : State),
    let v := readReg s rm
    let c := s.cpsr.flags.c
    let k := if n = 0#5 then 32 else n.toNat
    shiftOperand (.shiftImm rm .lsl n) s =
      ⟨v <<< n.toNat, if n = 0#5 then c else v.getLsbD (32 - n.toNat)⟩ ∧
    shiftOperand (.shiftImm rm .lsr n) s = ⟨v >>> k, v.getLsbD (k - 1)⟩ ∧
    shiftOperand (.shiftImm rm .asr n) s = ⟨v.sshiftRight k, v.getLsbD (k - 1)⟩ ∧
    (n ≠ 0#5 → shiftOperand (.shiftImm rm .ror n) s = ⟨v.rotateRight n.toNat, v.getLsbD (n.toNat - 1)⟩) ∧
    (n = 0#5 → shiftOperand (.shiftImm rm .ror n) s = ⟨BitVec.ofBool c ++ v.extractLsb' 1 31, v.getLsbD 0⟩)

/-- With n the low byte of Rs: amount 0 passes the register and the carry; LSL and LSR shift by n (giving 0 from 32 on)
with the last bit shifted out as carry, 0 above 32; ASR shifts by n, filling with the sign, and its carry is the sign
from 32 on; ROR rotates by n modulo 32 and its carry is the last bit rotated, bit 31 at a multiple of 32. [R453] -/
def Obligations.RegisterShiftOperand : Prop :=
  ∀ (rm rs : RegIdx) (s : State),
    let v := readReg s rm
    let n := (readReg s rs).toNat % 256
    (n = 0 → ∀ ty, shiftOperand (.shiftReg rm ty rs) s = ⟨v, s.cpsr.flags.c⟩) ∧
    (n ≠ 0 →
      shiftOperand (.shiftReg rm .lsl rs) s = ⟨v <<< n, decide (n ≤ 32) && v.getLsbD (32 - n)⟩ ∧
      shiftOperand (.shiftReg rm .lsr rs) s = ⟨v >>> n, v.getLsbD (n - 1)⟩ ∧
      shiftOperand (.shiftReg rm .asr rs) s = ⟨v.sshiftRight n, v.getLsbD (min n 32 - 1)⟩ ∧
      shiftOperand (.shiftReg rm .ror rs) s = ⟨v.rotateRight n, v.getLsbD ((n - 1) % 32)⟩)

/-- AddWithFlags narrows the exact sum; C is set exactly when the unsigned sum reaches 2^32; V exactly when the operands
have one sign and the result the other, which is when the exact signed sum is not the result read as signed.
SubWithFlags is AddWithFlags of the complement with carry-in 1: the result is a - b, C says no borrow, V signed
overflow of the subtraction. [R502; R503] -/
def Obligations.AddSubHelpers : Prop :=
  (∀ (a b : Word) (cin : Bool),
    let r := addWithFlags a b cin
    r.1 = BitVec.ofNat 32 (a.toNat + b.toNat + cin.toNat) ∧ r.2.n = r.1.getLsbD 31 ∧ (r.2.z = true ↔ r.1 = 0#32) ∧
    (r.2.c = true ↔ 2 ^ 32 ≤ a.toNat + b.toNat + cin.toNat) ∧
    (r.2.v = true ↔ a.getLsbD 31 = b.getLsbD 31 ∧ r.1.getLsbD 31 ≠ a.getLsbD 31) ∧
    (r.2.v = true ↔ r.1.toInt ≠ a.toInt + b.toInt + cin.toNat)) ∧
  (∀ a b : Word,
    let r := subWithFlags a b
    r = addWithFlags a (~~~b) true ∧ r.1 = a - b ∧ (r.2.c = true ↔ b.toNat ≤ a.toNat) ∧
    (r.2.v = true ↔ a.getLsbD 31 ≠ b.getLsbD 31 ∧ r.1.getLsbD 31 ≠ a.getLsbD 31) ∧
    (r.2.v = true ↔ r.1.toInt ≠ a.toInt - b.toInt))

/-- AND, EOR, SUB, RSB, ADD, ADC, SBC, RSC, ORR, MOV, BIC and MVN with Rd not R15: when the instruction is ready
(condition passed, no hazard), what it reads is written, its opcode implemented or completed, and R15 in no register
field of a register-specified shift, exec answers a next state in which Rd holds the opcode's result, the flags are
the opcode's when S = 1 and unchanged otherwise, pc is pc + 4, and every other register, memory, the SPSRs and the
control byte are unchanged. Operands are read before Rd is written. R15 as Rd is left to DataProcessingToPc and
DataProcessingReturn, R15 in a register-specified shift to DataProcessingReturn and ClassesLeftToCompletion.
[42_data_processing.md sections 1 to 3; 41_shifter.md section 3; 40_dispatch.md section 2] -/
def Obligations.DataProcessingResults : Prop :=
  ∀ (i : Instr) (s : State) (d : DataSpec), dataSpec i s = some d → Ready i s → Written i s →
    Implemented i s → shiftsByPc i = false → d.rd ≠ 15 →
      Completes i s (Writes d.rd d.value (if d.sf then d.flags else s.cpsr.flags) s)

/-- A ready test opcode whose operands are written, implemented or completed, without R15 as Rn, Rm or Rs of a register-
specified shift, answers a next state with its flags and pc + 4 and no register, memory byte, SPSR or control bit
changed, also when its Rd field is 15. That an ignored Rd field of 15 completes in a register-specified shift too is
the model's reading of R509 beside R460 (entry 12). [42_data_processing.md sections 1 to 3; 41_shifter.md section 3] -/
def Obligations.TestOpcodeResults : Prop :=
  ∀ (i : Instr) (s : State) (f : Flags), testSpec i s = some f → Ready i s → Written i s →
    Implemented i s → shiftsByPc i = false →
    Completes i s (Tests f s)

/-- For each of the twelve result opcodes, ready, with written operands, and implemented or completed, with Rd = R15 and
S = 0: an aligned result becomes the pc with the flags and everything else unchanged; a result with bits 1:0 not 00
faults Unpredictable. [R506] -/
def Obligations.DataProcessingToPc : Prop :=
  ∀ (i : Instr) (s : State) (d : DataSpec), dataSpec i s = some d → d.rd = 15 → d.sf = false → Ready i s →
    Written i s → Implemented i s → shiftsByPc i = false →
      (d.value.extractLsb' 0 2 = 0#2 → Completes i s (Jumps d.value s.cpsr.flags s)) ∧
      (d.value.extractLsb' 0 2 ≠ 0#2 → exec i s = .fault (.unpredictable 112))

/-- For each of the twelve result opcodes with Rd = R15 and S = 1, when ready: with ARM_COMPLETION false an implemented
opcode faults NotInSource. With it true: in User or System mode the form faults NoSpsr; elsewhere a register-
specified shift, in which Rd is R15, faults Unpredictable; without one, and with the operands and the SPSR written, a
saved mode that is no mode faults Unpredictable; otherwise the CPSR becomes the SPSR, flags included, and the pc the
result, word-aligned or a fault when the new T = 0, bit 0 cleared when it is 1; nothing else changes.
[42_data_processing.md sections 1 and 3; 41_shifter.md section 3; 60_exceptions.md section 4] -/
def Obligations.DataProcessingReturn : Prop :=
  ∀ (i : Instr) (s : State) (d : DataSpec), dataSpec i s = some d → d.rd = 15 → d.sf = true → Ready i s →
    (s.armCompletion = false → unimplementedAs i = none → exec i s = .fault (.notInSource 507)) ∧
    (s.armCompletion = true →
      (spsrOf s.cpsr.mode s = none → exec i s = .fault (.noSpsr s.cpsr.mode)) ∧
      ∀ p, spsrOf s.cpsr.mode s = some p →
        (shiftsByPc i = true → exec i s = .fault (.unpredictable 460)) ∧
        (shiftsByPc i = false → Written i s →
          (modeOf (p.control.extractLsb' 0 5) = none → exec i s = .fault (.unpredictable 1070)) ∧
          (modeOf (p.control.extractLsb' 0 5) ≠ none → p.control.getLsbD 5 = false →
            d.value.extractLsb' 0 2 ≠ 0#2 → exec i s = .fault (.unpredictable 112)) ∧
          (modeOf (p.control.extractLsb' 0 5) ≠ none →
            p.control.getLsbD 5 = true ∨ d.value.extractLsb' 0 2 = 0#2 → Completes i s (Returns d.value p [] s))))

/-- With ARM_COMPLETION false and the condition passed: every class the source leaves unimplemented faults Unimplemented
with its sub-parameters, every undefined encoding faults Undefined with its family, and every exception-return form
of an implemented class faults NotInSource (an LDM with S = 1 and an empty list is one: the model's reading, entry
13). In either setting, an implemented or completed data-processing opcode that uses R15 in a register-specified
shift, and is no return form, faults Unpredictable (DataProcessingReturn says so of the return forms; the ignored Rd
field of a test opcode does not count: the model's reading, entry 12). [60_exceptions.md section 1; 41_shifter.md
section 3; 00_scope.md section 4] -/
def Obligations.ClassesLeftToCompletion : Prop :=
  (∀ (i : Instr) (s : State), Ready i s → s.armCompletion = false →
    (∀ k, unimplementedAs i = some k → exec i s = .fault (.unimplemented k)) ∧
    (∀ f, undefinedAs i = some f → exec i s = .fault (.undefined f)) ∧
    (returnsFromException i s = true → unimplementedAs i = none → ∃ n, exec i s = .fault (.notInSource n))) ∧
  (∀ (i : Instr) (s : State), Ready i s → Implemented i s → shiftsByPc i = true → returnsFromException i s = false →
    exec i s = .fault (.unpredictable 460))

/-- With Rm and Rs (and for MLA Rn) not R15 and written, a ready MUL or MLA has as its result the product, plus Rn for
MLA, modulo 2^32. With Rd not R15 it answers a next state in which Rd holds the result; with S = 1 N and Z are the
result's, V is unchanged and C is whatever value is drawn; with S = 0 no flag changes; pc is pc + 4 and nothing else
changes. With Rd = R15 it goes to the result without a step, the flags written as above, if the result is word-
aligned, and faults Unpredictable otherwise. [43_multiply.md section 1] -/
def Obligations.MultiplyResults : Prop :=
  ∀ (c : Cond) (sf : Bool) (rd rn rs rm : RegIdx) (s : State), rm ≠ 15 → rs ≠ 15 →
    let product := (readReg s rm).toNat * (readReg s rs).toNat
    let flags := fun (v : Word) (carry : Bool) =>
      if sf then (⟨v.msb, decide (v = 0#32), carry, s.cpsr.flags.v⟩ : Flags) else s.cpsr.flags
    let right := fun (i : Instr) (v : Word) => Ready i s → Written i s →
      (rd ≠ 15 → ∃ carry, Completes i s (Writes rd v (flags v carry) s)) ∧
      (rd = 15 → v.extractLsb' 0 2 = 0#2 → ∃ carry, Completes i s (Jumps v (flags v carry) s)) ∧
      (rd = 15 → v.extractLsb' 0 2 ≠ 0#2 → exec i s = .fault (.unpredictable 112))
    right (.mul c sf rd rn rs rm) (BitVec.ofNat 32 product) ∧
    (rn ≠ 15 → right (.mla c sf rd rn rs rm) (BitVec.ofNat 32 (product + (readReg s rn).toNat)))

/-- Under ARM_COMPLETION, a ready UMULL, UMLAL, SMULL or SMLAL with legal registers and written operands writes bits 31:0
of its 64-bit result to RdLo and bits 63:32 to RdHi; with S = 1 N is bit 63, Z says the result is 0, and C and V are
whatever values are drawn; with S = 0 no flag changes; pc is pc + 4 and nothing else changes. [43_multiply.md section
2] -/
def Obligations.LongMultiplyResults : Prop :=
  ∀ (i : Instr) (s : State) (l : LongSpec), longSpec i s = some l → Ready i s → Written i s →
    s.armCompletion = true → l.Legal →
    ∃ c v : Bool, Completes i s
      (WritesLong l (if l.sf then ⟨l.value.msb, decide (l.value = 0#64), c, v⟩ else s.cpsr.flags) s)

/-- A ready MUL with Rm or Rs R15, or MLA with Rm, Rs or Rn R15, faults Unpredictable; under ARM_COMPLETION a ready long
multiply faults Unpredictable when RdHi, RdLo, Rm or Rs is R15, or RdHi = RdLo, RdHi = Rm or RdLo = Rm.
[43_multiply.md sections 1 and 2] -/
def Obligations.MultiplyFaults : Prop :=
  (∀ (c : Cond) (sf : Bool) (rd rn rs rm : RegIdx) (s : State),
    (Ready (.mul c sf rd rn rs rm) s → rm = 15 ∨ rs = 15 →
      exec (.mul c sf rd rn rs rm) s = .fault (.unpredictable 604)) ∧
    (Ready (.mla c sf rd rn rs rm) s → rm = 15 ∨ rs = 15 ∨ rn = 15 →
      exec (.mla c sf rd rn rs rm) s = .fault (.unpredictable 604))) ∧
  (∀ (i : Instr) (s : State) (l : LongSpec), longSpec i s = some l → Ready i s → s.armCompletion = true → ¬l.Legal →
    exec i s = .fault (.unpredictable 617))

/-- With Rd not R15 a ready MRS of a written PSR answers a next state in which bits 31:28 of Rd are the flags and bits
7:0 the control byte of the PSR named (bits 27:8 are drawn, so nothing is said of them), pc is pc + 4 and nothing
else changes. MRS of the SPSR in User or System mode faults NoSpsr, whatever Rd is. [44_status_transfer.md section 1] -/
def Obligations.MrsResults : Prop :=
  ∀ (c : Cond) (rd : RegIdx) (s : State),
    let reads := fun (i : Instr) (f : Flags) (control : BitVec 8) => Ready i s → Written i s → rd ≠ 15 →
      ∃ v : Word, v.getLsbD 31 = f.n ∧ v.getLsbD 30 = f.z ∧ v.getLsbD 29 = f.c ∧ v.getLsbD 28 = f.v ∧
        v.extractLsb' 0 8 = control ∧ Completes i s (Writes rd v s.cpsr.flags s)
    reads (.mrs c .cpsr rd) s.cpsr.flags (controlByte s.cpsr) ∧
    (∀ p, spsrOf s.cpsr.mode s = some p → reads (.mrs c .spsr rd) p.flags p.control) ∧
    (spsrOf s.cpsr.mode s = none → Ready (.mrs c .spsr rd) s →
      exec (.mrs c .spsr rd) s = .fault (.noSpsr s.cpsr.mode))

/-- With the PSR written: MRS R15, CPSR in User mode goes, without a step, to a value with the CPSR's flags and control
byte; in every other mode it faults Unpredictable, because the mode bits 1:0 are not 00. MRS R15, SPSR does the one
or the other as the saved mode bits 1:0 are 00 or not. [R652] -/
def Obligations.MrsToPc : Prop :=
  ∀ (c : Cond) (s : State),
    let goes := fun (i : Instr) (f : Flags) (control : BitVec 8) =>
      ∃ v : Word, v.getLsbD 31 = f.n ∧ v.getLsbD 30 = f.z ∧ v.getLsbD 29 = f.c ∧ v.getLsbD 28 = f.v ∧
        v.extractLsb' 0 8 = control ∧ Completes i s (Jumps v s.cpsr.flags s)
    (Ready (.mrs c .cpsr 15) s → Written (.mrs c .cpsr 15) s →
      (s.cpsr.mode = .usr → goes (.mrs c .cpsr 15) s.cpsr.flags (controlByte s.cpsr)) ∧
      (s.cpsr.mode ≠ .usr → exec (.mrs c .cpsr 15) s = .fault (.unpredictable 112))) ∧
    (∀ p, spsrOf s.cpsr.mode s = some p → Ready (.mrs c .spsr 15) s → Written (.mrs c .spsr 15) s →
      (p.control.extractLsb' 0 2 = 0#2 → goes (.mrs c .spsr 15) p.flags p.control) ∧
      (p.control.extractLsb' 0 2 ≠ 0#2 → exec (.mrs c .spsr 15) s = .fault (.unpredictable 112)))

/-- A ready MSR to the CPSR (register, written, or immediate) whose value passes the checks answers a next state: with
field f the flags are bits 31:28 of the operand, else unchanged; with field c in a privileged mode I, F and the mode
are bits 7, 6 and 4:0, else unchanged, and in User mode field c is ignored; T is unchanged; pc is pc + 4; no
register, memory byte or SPSR changes. The checks, in a privileged mode with field c: bit 5 equals T and bits 4:0 are
a mode. [44_status_transfer.md section 2; 60_exceptions.md section 5] -/
def Obligations.MsrWritesCpsr : Prop :=
  ∀ (i : Instr) (s : State) (ff cf : Bool) (v : Word), msrSpec i s = some (.cpsr, ff, cf, v) → Ready i s → Written i s →
    let ctrl := cf = true ∧ s.cpsr.mode ≠ .usr
    (ctrl → v.getLsbD 5 = s.cpsr.t ∧ modeOf (v.extractLsb' 0 5) ≠ none) →
      Completes i s fun t =>
        t.cpsr.flags =
          (if ff then ⟨v.getLsbD 31, v.getLsbD 30, v.getLsbD 29, v.getLsbD 28⟩ else s.cpsr.flags) ∧
        (ctrl → t.cpsr.i = v.getLsbD 7 ∧ t.cpsr.f = v.getLsbD 6 ∧ t.cpsr.mode.bits = v.extractLsb' 0 5) ∧
        (¬ctrl → t.cpsr.i = s.cpsr.i ∧ t.cpsr.f = s.cpsr.f ∧ t.cpsr.mode = s.cpsr.mode) ∧
        t.cpsr.t = s.cpsr.t ∧ t.pc = s.pc + 4#32 ∧ t.ldmUserHazard = false ∧ Kept [] [] s t

/-- In an exception mode a ready MSR of a written operand to the SPSR answers a next state in which the SPSR's flags are
bits 31:28 of the operand with field f and its control byte bits 7:0 with field c, whatever they hold, else
unchanged; the CPSR, every register, memory and every other SPSR are unchanged and pc is pc + 4. In User or System
mode it faults NoSpsr. [44_status_transfer.md section 2] -/
def Obligations.MsrWritesSpsr : Prop :=
  ∀ (i : Instr) (s : State) (ff cf : Bool) (v : Word), msrSpec i s = some (.spsr, ff, cf, v) → Ready i s →
    (spsrOf s.cpsr.mode s = none → exec i s = .fault (.noSpsr s.cpsr.mode)) ∧
    ∀ p, spsrOf s.cpsr.mode s = some p → Written i s →
      Completes i s fun t =>
        spsrOf s.cpsr.mode t = some
          { flags := if ff then ⟨v.getLsbD 31, v.getLsbD 30, v.getLsbD 29, v.getLsbD 28⟩ else p.flags
            control := if cf then v.extractLsb' 0 8 else p.control } ∧
        (∀ m, m ≠ s.cpsr.mode → spsrOf m t = spsrOf m s) ∧ t.cpsr = s.cpsr ∧ t.regs = s.regs ∧ t.mem = s.mem ∧
        t.pc = s.pc + 4#32 ∧ t.ldmUserHazard = false ∧ t.fault = s.fault ∧ t.armCompletion = s.armCompletion

/-- A ready MSR register with Rm = R15 faults Unpredictable, but to the SPSR in User or System mode it faults NoSpsr
first. A ready MSR of a written operand to the CPSR with field c in a privileged mode faults Unpredictable when bit 5
of the operand is not T or bits 4:0 are no mode. [44_status_transfer.md section 2] -/
def Obligations.MsrFaults : Prop :=
  (∀ (c : Cond) (psr : PsrSel) (fields : MsrFields) (x : BitVec 2) (s : State), Ready (.msrReg c psr fields x 15) s →
    psr = .cpsr ∨ spsrOf s.cpsr.mode s ≠ none → exec (.msrReg c psr fields x 15) s = .fault (.unpredictable 662)) ∧
  (∀ (c : Cond) (fields : MsrFields) (x : BitVec 2) (s : State), Ready (.msrReg c .spsr fields x 15) s →
    spsrOf s.cpsr.mode s = none → exec (.msrReg c .spsr fields x 15) s = .fault (.noSpsr s.cpsr.mode)) ∧
  (∀ (i : Instr) (s : State) (ff : Bool) (v : Word), msrSpec i s = some (.cpsr, ff, true, v) → Ready i s →
    Written i s → s.cpsr.mode ≠ .usr → v.getLsbD 5 ≠ s.cpsr.t ∨ modeOf (v.extractLsb' 0 5) = none →
      exec i s = .fault (.unpredictable 662))

/-- If a ready MSR answers t, and every part of the PSR is written then, MRS of the same PSR into a register other than
R15 at t completes; bits 31:28 of the register equal the operand's with field f, and bits 7:0 with field c (for the
CPSR, when the mode before the MSR was privileged). [R665] -/
def Obligations.MsrThenMrsRoundTrip : Prop :=
  ∀ (i : Instr) (s t : State) (psr : PsrSel) (ff cf : Bool) (v : Word) (rd : RegIdx),
    msrSpec i s = some (psr, ff, cf, v) → Ready i s → exec i s = .next t → rd ≠ 15 →
    Written (.mrs .al psr rd) t →
      Completes (.mrs .al psr rd) t fun u =>
        (ff = true → (readReg u rd).extractLsb' 28 4 = v.extractLsb' 28 4) ∧
        (cf = true → s.cpsr.mode ≠ .usr → (readReg u rd).extractLsb' 0 8 = v.extractLsb' 0 8)

/-- With a word-aligned pc (which the invariant gives in ARM state), a ready B answers a next state that differs only in
the pc, which is pc + 8 plus four times the signed 24-bit offset, wrapping; BL also writes pc + 4 to the current
mode's R14 and changes nothing else. No flag changes. [R700; R701] -/
def Obligations.BranchResults : Prop :=
  ∀ (c : Cond) (off : BitVec 24) (s : State), s.pc.extractLsb' 0 2 = 0#2 →
    let target := s.pc + 8#32 + BitVec.ofInt 32 (4 * off.toInt)
    (Ready (.b c off) s → Completes (.b c off) s (Jumps target s.cpsr.flags s)) ∧
    (Ready (.bl c off) s → Completes (.bl c off) s fun t =>
      readReg t 14 = s.pc + 4#32 ∧ t.pc = target ∧ t.cpsr.flags = s.cpsr.flags ∧ Kept (physOf s [14]) [] s t ∧
        Plain s t)

/-- With v the value of Rm (pc + 8 for R15), which is written: if bit 0 is set, T becomes 1 and the pc v with bit 0
cleared; if bits 1:0 are 00 the pc is v and T stays; if they are 10 the instruction faults Unpredictable. Nothing
else changes. [R720; R721] -/
def Obligations.BranchExchangeResults : Prop :=
  ∀ (c : Cond) (rm : RegIdx) (s : State), Ready (.bx c rm) s → Written (.bx c rm) s →
    let v := readReg s rm
    (v.getLsbD 0 = true → Completes (.bx c rm) s fun t =>
      t.pc = v &&& 0xFFFFFFFE#32 ∧ t.cpsr = { s.cpsr with t := true } ∧ t.ldmUserHazard = false ∧ Kept [] [] s t) ∧
    (v.extractLsb' 0 2 = 0b00#2 → Completes (.bx c rm) s (Jumps v s.cpsr.flags s)) ∧
    (v.extractLsb' 0 2 = 0b10#2 → exec (.bx c rm) s = .fault (.unpredictable 721))

/-- LDR, LDRB, LDRT, LDRBT, LDRH, LDRSB and (completed) LDRSH, ready, legal and with written base and offset: with Rd not
R15 a next state in which Rd holds the value read at the address, the base holds the moved value when writeback
happens and Rd is not Rn, and pc is pc + 4; with Rd = R15 a loaded value with bits 1:0 = 00 becomes the pc without a
step, after the writeback, and any other value faults Unpredictable. The flags are unchanged, and no other register,
no memory byte, no SPSR and no control bit changes. [46_single_transfer.md sections 1 and 2; 47_halfword_swap.md
sections 1 and 2; 20_memory.md section 2; 10_state.md section 4] -/
def Obligations.LoadResults : Prop :=
  ∀ (i : Instr) (s : State) (x : TransferSpec) (data : Word), loadSpec i s = some (x, data) → Ready i s → Written i s →
    Implemented i s → x.Legal →
      (x.rd ≠ 15 → Completes i s fun t =>
        readReg t x.rd = data ∧ (x.ix.wb = true → x.rd ≠ x.rn → readReg t x.rn = x.ix.moved) ∧
        t.pc = s.pc + 4#32 ∧ t.cpsr.flags = s.cpsr.flags ∧
        Kept (physOf s (if x.ix.wb then [x.rd, x.rn] else [x.rd])) [] s t ∧ Plain s t) ∧
      (x.rd = 15 → data.extractLsb' 0 2 = 0#2 → Completes i s fun t =>
        t.pc = data ∧ (x.ix.wb = true → readReg t x.rn = x.ix.moved) ∧ t.cpsr.flags = s.cpsr.flags ∧
        Kept (physOf s (if x.ix.wb then [x.rn] else [])) [] s t ∧ Plain s t) ∧
      (x.rd = 15 → data.extractLsb' 0 2 ≠ 0#2 → exec i s = .fault (.unpredictable 112))

/-- STR, STRB, STRT, STRBT and STRH, ready, with written registers, legal and clear of the two prefetched words, answer a
next state in which the 4, 1 or 2 bytes from the (aligned) address hold the value of Rd before the instruction, pc +
12 for R15, little-endian; the base holds the moved value when writeback happens; the flags are unchanged, pc is pc +
4, and every other byte, register, SPSR and control bit is unchanged. [46_single_transfer.md sections 1 and 2;
47_halfword_swap.md sections 1 and 2; 20_memory.md section 2] -/
def Obligations.StoreResults : Prop :=
  ∀ (i : Instr) (s : State) (x : TransferSpec) (a : Word) (n : Nat), storeSpec i s = some (x, a, n) → Ready i s →
    Written i s → x.Legal → ClearOfPrefetch s.pc (bytesFrom a n) →
      Completes i s fun t =>
        (∀ k < n, readByte t.mem (a + BitVec.ofNat 32 k) = (storedSpec s x.rd).extractLsb' (8 * k) 8) ∧
        (x.ix.wb = true → readReg t x.rn = x.ix.moved) ∧
        t.pc = s.pc + 4#32 ∧ t.cpsr.flags = s.cpsr.flags ∧
        Kept (physOf s (if x.ix.wb then [x.rn] else [])) (bytesFrom a n) s t ∧ Plain s t

/-- The base moves by the offset, up or down, wrapping; the address is the moved value when P = 1 and the base when P =
0; writeback happens when P = 0 or W = 1. An immediate offset is zero-extended, a register offset of a single
transfer is the register shifted by an immediate, of a halfword transfer the register itself. The base R15 reads pc +
8. [46_single_transfer.md section 1; 47_halfword_swap.md section 1; 10_state.md section 4] -/
def Obligations.TransferAddresses : Prop :=
  ∀ (pre up wback : Bool) (rn : RegIdx) (s : State),
    let right := fun (x : Indexed) (o : Word) =>
      x.moved = (if up then readReg s rn + o else readReg s rn - o) ∧
      x.addr = (if pre then x.moved else readReg s rn) ∧ (x.wb = true ↔ pre = false ∨ wback = true)
    (∀ off, right (singleAddress pre up wback rn off s) (offsetValue off s)) ∧
    (∀ off, right (halfwordAddress pre up wback rn off s) (halfOffsetValue off s)) ∧
    (∀ imm12, (offsetValue (.imm imm12) s).toNat = imm12.toNat) ∧
    (∀ rm ty n, offsetValue (.reg rm ty n) s = (shiftOperand (.shiftImm rm ty n) s).value) ∧
    (∀ imm8, (halfOffsetValue (.imm imm8) s).toNat = imm8.toNat) ∧
    (∀ rm, halfOffsetValue (.reg rm) s = readReg s rm) ∧
    readReg s 15 = s.pc + 8#32

/-- For every operand and state, the T form and the plain transfer with P = 0 and W = 0 have the same outcome. [R758] -/
def Obligations.UserTransfersArePostIndexed : Prop :=
  ∀ (c : Cond) (up : Bool) (rn rd : RegIdx) (off : Offset) (s : State),
    exec (.ldrt c up rn rd off) s = exec (.ldr c false up false rn rd off) s ∧
    exec (.strt c up rn rd off) s = exec (.str c false up false rn rd off) s ∧
    exec (.ldrbt c up rn rd off) s = exec (.ldrb c false up false rn rd off) s ∧
    exec (.strbt c up rn rd off) s = exec (.strb c false up false rn rd off) s

/-- If any byte that a ready, legal, and written STR, STRB, STRT, STRBT, STRH, STM, user-bank STM or (completed) SWP or
SWPB would write lies in [pc + 4, pc + 12) modulo 2^32, the instruction faults SelfModifyHazard with such a byte's
address. [70_reset_and_hazards.md section 3] -/
def Obligations.StoreIntoPrefetchedWords : Prop :=
  ∀ (i : Instr) (s : State), Ready i s → Written i s →
    let faults := fun bytes : List Word => (∃ y ∈ bytes, (y - (s.pc + 4#32)).toNat < 8) →
      ∃ y ∈ bytes, (y - (s.pc + 4#32)).toNat < 8 ∧ exec i s = .fault (.selfModifyHazard y)
    (∀ x a n, storeSpec i s = some (x, a, n) → x.Legal → faults (bytesFrom a n)) ∧
    (∀ b, stmSpec i = some b → b.rn ≠ 15 → faults (slotBytes (b.start s) b.list)) ∧
    (∀ c pre up rn list, i = .stmUser c pre up false rn list → rn ≠ 15 → spsrOf s.cpsr.mode s ≠ none →
      faults (slotBytes (blockStart pre up (readReg s rn) (listSpan list)) list)) ∧
    (∀ c rn rd rm, s.armCompletion = true → rd ≠ 15 → rn ≠ 15 → rm ≠ 15 → rn ≠ rd → rn ≠ rm →
      (i = .swp c rn rd rm → faults (bytesFrom (alignWord (readReg s rn)) 4)) ∧
      (i = .swpb c rn rd rm → faults (bytesFrom (readReg s rn) 1)))

/-- Under ARM_COMPLETION, a ready SWP or SWPB with written registers that the rule allows and an address clear of the
prefetched words answers a next state in which Rd holds the rotated word, or the zero-extended byte, that memory
held; the aligned word, or the byte, holds Rm's value before the instruction; pc is pc + 4 and nothing else changes.
Rd = Rm swaps a register with memory. [47_halfword_swap.md section 3; 20_memory.md section 3] -/
def Obligations.SwapResults : Prop :=
  ∀ (c : Cond) (rn rd rm : RegIdx) (s : State), s.armCompletion = true → rd ≠ 15 → rn ≠ 15 → rm ≠ 15 → rn ≠ rd →
    rn ≠ rm →
      let a := readReg s rn
      (Ready (.swp c rn rd rm) s → Written (.swp c rn rd rm) s → ClearOfPrefetch s.pc (bytesFrom (alignWord a) 4) →
        Completes (.swp c rn rd rm) s fun t =>
          readReg t rd = readRotateWord s.mem a ∧
          (∀ k < 4, readByte t.mem (alignWord a + BitVec.ofNat 32 k) = (readReg s rm).extractLsb' (8 * k) 8) ∧
          t.pc = s.pc + 4#32 ∧ t.cpsr.flags = s.cpsr.flags ∧
          Kept (physOf s [rd]) (bytesFrom (alignWord a) 4) s t ∧ Plain s t) ∧
      (Ready (.swpb c rn rd rm) s → Written (.swpb c rn rd rm) s → ClearOfPrefetch s.pc [a] →
        Completes (.swpb c rn rd rm) s fun t =>
          readReg t rd = readZeroByte s.mem a ∧ readByte t.mem a = (readReg s rm).extractLsb' 0 8 ∧
          t.pc = s.pc + 4#32 ∧ t.cpsr.flags = s.cpsr.flags ∧ Kept (physOf s [rd]) [a] s t ∧ Plain s t)

/-- A ready, implemented or completed single or halfword transfer with R15 as offset register, or writeback to R15,
faults Unpredictable. Under ARM_COMPLETION a ready swap with R15, or with Rn = Rd or Rn = Rm, faults Unpredictable. A
ready block transfer with Rn = R15 faults Unpredictable (an exception return under ARM_COMPLETION in a mode that has
an SPSR; what comes before it there LdmReturn says), and so does a user-bank form with W = 1 or in User or System
mode. An LDM with S = 1 and an empty list is a return form (the model's reading, entry 13). [R753; R802; R803; R833;
R858] -/
def Obligations.TransferRegisterFaults : Prop :=
  (∀ (i : Instr) (s : State) (x : TransferSpec), Ready i s → Implemented i s →
    (∃ data, loadSpec i s = some (x, data)) ∨ (∃ a n, storeSpec i s = some (x, a, n)) → ¬x.Legal →
      ∃ rule, exec i s = .fault (.unpredictable rule)) ∧
  (∀ (i : Instr) (c : Cond) (rn rd rm : RegIdx) (s : State), i = .swp c rn rd rm ∨ i = .swpb c rn rd rm → Ready i s →
    s.armCompletion = true → rd = 15 ∨ rn = 15 ∨ rm = 15 ∨ rn = rd ∨ rn = rm →
      exec i s = .fault (.unpredictable 833)) ∧
  (∀ (i : Instr) (b : BlockSpec) (s : State), ldmSpec i = some b ∨ stmSpec i = some b → Ready i s → b.rn = 15 →
    exec i s = .fault (.unpredictable 858)) ∧
  (∀ (i : Instr) (c : Cond) (pre up wback : Bool) (rn : RegIdx) (list : BitVec 16) (s : State),
    (i = .ldmUser c pre up wback rn list ∧ list ≠ 0#16) ∨ i = .stmUser c pre up wback rn list → Ready i s →
      rn = 15 ∨ wback = true ∨ spsrOf s.cpsr.mode s = none → exec i s = .fault (.unpredictable 858)) ∧
  (∀ (i : Instr) (b : BlockSpec) (s : State), ldmReturnSpec i = some b → Ready i s → s.armCompletion = true →
    spsrOf s.cpsr.mode s ≠ none → b.rn = 15 → exec i s = .fault (.unpredictable 858))

/-- The effective list is the set bits in strictly ascending order, R15 alone for the empty list; the span is four bytes
for each register, 64 for the empty list; IA starts at the base and moves it up by the span, IB starts at base + 4,
DA at base - span + 4 and DB at base - span, both moving it down; slot k is the word-aligned start + 4k.
[48_block_transfer.md section 1] -/
def Obligations.BlockListsAndAddresses : Prop :=
  (∀ list : BitVec 16,
    (listRegs list).Pairwise (fun p q => p.val < q.val) ∧
    (list ≠ 0#16 → (∀ r, r ∈ listRegs list ↔ list.getLsbD r.val = true) ∧
      listSpan list = BitVec.ofNat 32 (4 * (listRegs list).length)) ∧
    (list = 0#16 → listRegs list = [15] ∧ listSpan list = 64#32)) ∧
  (∀ base span : Word,
    blockStart false true base span = base ∧ blockStart true true base span = base + 4#32 ∧
    blockStart false false base span = base - span + 4#32 ∧ blockStart true false base span = base - span ∧
    blockFinal true base span = base + span ∧ blockFinal false base span = base - span) ∧
  (∀ (start : Word) (k : Nat), blockSlot start k = (start + BitVec.ofNat 32 (4 * k)) &&& 0xFFFFFFFC#32)

/-- LDMIA, LDMIB, LDMDA and LDMDB with a list that is not empty and does not hold R15, Rn written and not R15: a ready
instruction answers a next state in which the k-th register of the list holds the word at slot k, the base holds the
final value when W = 1 and Rn is not listed, the flags are unchanged, pc is pc + 4, and no other register, no memory
byte, no SPSR and no control bit changes. [48_block_transfer.md sections 1 and 2] -/
def Obligations.LdmResults : Prop :=
  ∀ (i : Instr) (s : State) (b : BlockSpec), ldmSpec i = some b → Ready i s → Written i s → b.rn ≠ 15 → b.list ≠ 0#16 →
    b.list.getLsbD 15 = false →
      Completes i s fun t =>
        (∀ k r, (listRegs b.list)[k]? = some r → readReg t r = readWord s.mem (blockSlot (b.start s) k)) ∧
        (b.wback = true → b.list.getLsbD b.rn.val = false → readReg t b.rn = b.final s) ∧
        t.pc = s.pc + 4#32 ∧ t.cpsr.flags = s.cpsr.flags ∧
        Kept (physOf s (if b.wback then b.rn :: listRegs b.list else listRegs b.list)) [] s t ∧ Plain s t

/-- When the list holds R15 or is empty, and Rn is written and not R15, the last slot's word goes to the pc: with bits
1:0 = 00 the other registers are loaded, the base is written back when W = 1 and Rn is not listed (by 64 bytes for
the empty list), and the pc is that word; with other low bits the instruction faults Unpredictable and nothing
changes. [48_block_transfer.md section 1] -/
def Obligations.LdmToPc : Prop :=
  ∀ (i : Instr) (s : State) (b : BlockSpec), ldmSpec i = some b → Ready i s → Written i s → b.rn ≠ 15 →
    b.list = 0#16 ∨ b.list.getLsbD 15 = true →
      let v := readWord s.mem (blockSlot (b.start s) ((listRegs b.list).length - 1))
      (v.extractLsb' 0 2 = 0#2 → Completes i s fun t =>
        t.pc = v ∧
        (∀ k r, (listRegs b.list)[k]? = some r → r ≠ 15 → readReg t r = readWord s.mem (blockSlot (b.start s) k)) ∧
        (b.wback = true → b.list.getLsbD b.rn.val = false → readReg t b.rn = b.final s) ∧
        t.cpsr.flags = s.cpsr.flags ∧
        Kept (physOf s (if b.wback then b.rn :: listRegs b.list else listRegs b.list)) [] s t ∧ Plain s t) ∧
      (v.extractLsb' 0 2 ≠ 0#2 → exec i s = .fault (.unpredictable 112))

/-- STMIA, STMIB, STMDA and STMDB, Rn not R15, every register written, and clear of the prefetched words: a ready
instruction answers a next state in which slot k holds the k-th register of the effective list (pc + 12 for R15; the
final base for Rn when W = 1 and it is not the first), the base holds the final value when W = 1, the flags are
unchanged, pc is pc + 4, and every other byte, register, SPSR and control bit is unchanged. [48_block_transfer.md
sections 1 and 2] -/
def Obligations.StmResults : Prop :=
  ∀ (i : Instr) (s : State) (b : BlockSpec), stmSpec i = some b → Ready i s → Written i s → b.rn ≠ 15 →
    ClearOfPrefetch s.pc (slotBytes (b.start s) b.list) →
      Completes i s fun t =>
        (∀ k r, (listRegs b.list)[k]? = some r → ∀ j < 4,
          readByte t.mem (blockSlot (b.start s) k + BitVec.ofNat 32 j) =
            (if r = 15 then s.pc + 12#32 else if r = b.rn ∧ b.wback = true ∧ 0 < k then b.final s
              else readReg s r).extractLsb' (8 * j) 8) ∧
        (b.wback = true → readReg t b.rn = b.final s) ∧
        t.pc = s.pc + 4#32 ∧ t.cpsr.flags = s.cpsr.flags ∧
        Kept (physOf s (if b.wback then [b.rn] else [])) (slotBytes (b.start s) b.list) s t ∧ Plain s t

/-- In an exception mode with W = 0, Rn not R15 and the registers read written: a ready user-bank LDM of a non-empty list
without R15 loads slot k into the k-th register of the User view, sets the hazard bit, steps, and changes nothing
else; a ready user-bank STM clear of the prefetched words stores the User-view registers (pc + 12 for R15) at the
slots, steps, and changes nothing else. The base is read in the current view. [48_block_transfer.md sections 1 and 2;
10_state.md section 5] -/
def Obligations.UserBankTransfers : Prop :=
  ∀ (c : Cond) (pre up : Bool) (rn : RegIdx) (list : BitVec 16) (s : State), rn ≠ 15 → spsrOf s.cpsr.mode s ≠ none →
    let start := blockStart pre up (readReg s rn) (listSpan list)
    (Ready (.ldmUser c pre up false rn list) s → Written (.ldmUser c pre up false rn list) s → list ≠ 0#16 → list.getLsbD 15 = false →
      Completes (.ldmUser c pre up false rn list) s fun t =>
        (∀ k r, (listRegs list)[k]? = some r → readUser t r = readWord s.mem (blockSlot start k)) ∧
        t.ldmUserHazard = true ∧ t.pc = s.pc + 4#32 ∧ t.cpsr = s.cpsr ∧
        Kept ((listRegs list).filterMap (view .usr)) [] s t) ∧
    (Ready (.stmUser c pre up false rn list) s → Written (.stmUser c pre up false rn list) s →
      ClearOfPrefetch s.pc (slotBytes start list) →
      Completes (.stmUser c pre up false rn list) s fun t =>
        (∀ k r, (listRegs list)[k]? = some r → ∀ j < 4,
          readByte t.mem (blockSlot start k + BitVec.ofNat 32 j) =
            (if r = 15 then s.pc + 12#32 else readUser s r).extractLsb' (8 * j) 8) ∧
        t.ldmUserHazard = false ∧ t.pc = s.pc + 4#32 ∧ t.cpsr = s.cpsr ∧ Kept [] (slotBytes start list) s t)

/-- With ARM_COMPLETION false the form faults NotInSource; with it true and no SPSR it faults NoSpsr. With an SPSR and Rn
not R15, both written (TransferRegisterFaults has R15): a saved mode that is no mode faults Unpredictable; a last
word with bits 1:0 not 00 faults Unpredictable when the saved T = 0; otherwise the loads and the writeback happen in
the bank of the old mode, the CPSR becomes the SPSR, and the pc is the last word, with bit 0 cleared when the new T =
1. An empty list with S = 1 is this form too (the model's reading, entry 13). [48_block_transfer.md sections 1 and 2;
60_exceptions.md section 4; 10_state.md section 4] -/
def Obligations.LdmReturn : Prop :=
  ∀ (i : Instr) (s : State) (b : BlockSpec), ldmReturnSpec i = some b → b.list = 0#16 ∨ b.list.getLsbD 15 = true →
    Ready i s →
      let v := readWord s.mem (blockSlot (b.start s) ((listRegs b.list).length - 1))
      (s.armCompletion = false → exec i s = .fault (.notInSource 857)) ∧
      (s.armCompletion = true → spsrOf s.cpsr.mode s = none → exec i s = .fault (.noSpsr s.cpsr.mode)) ∧
      (s.armCompletion = true → b.rn ≠ 15 → Written i s → ∀ p, spsrOf s.cpsr.mode s = some p →
        (modeOf (p.control.extractLsb' 0 5) = none → exec i s = .fault (.unpredictable 1070)) ∧
        (modeOf (p.control.extractLsb' 0 5) ≠ none → p.control.getLsbD 5 = false → v.extractLsb' 0 2 ≠ 0#2 →
          exec i s = .fault (.unpredictable 112)) ∧
        (modeOf (p.control.extractLsb' 0 5) ≠ none → p.control.getLsbD 5 = true ∨ v.extractLsb' 0 2 = 0#2 →
          Completes i s fun t =>
            Returns v p (physOf s (if b.wback then b.rn :: listRegs b.list else listRegs b.list)) s t ∧
            (∀ k r, (listRegs b.list)[k]? = some r → r ≠ 15 →
              readRegIn s.cpsr.mode t r = readWord s.mem (blockSlot (b.start s) k)) ∧
            (b.wback = true → b.list.getLsbD b.rn.val = false → readRegIn s.cpsr.mode t b.rn = b.final s)))

/-- Under ARM_COMPLETION a ready SWI, whatever its comment, answers a state in Supervisor mode with R14_svc = pc + 4,
SPSR_svc = the old CPSR, I = 1, T = 0, F unchanged, pc = 8, and nothing else changed. From there, if the SWI ran in
ARM state at an aligned pc with every flag written, MOVS PC, R14 answers a state with the old CPSR restored and pc
just after the SWI. [R901] -/
def Obligations.SwiEntersAndReturns : Prop :=
  ∀ (c : Cond) (comment : BitVec 24) (s : State), s.armCompletion = true → Ready (.swi c comment) s →
    Completes (.swi c comment) s fun t =>
      Enters 0x00000008#32 .svc (s.pc + 4#32) s.cpsr.f s t ∧ t.ldmUserHazard = false ∧
      (s.cpsr.t = false → (∀ p ∈ flagParts, p ∉ s.unwritten) → s.pc.extractLsb' 0 2 = 0#2 →
        Completes (.mov .al true 0 15 (.shiftImm 14 .lsl 0#5)) t fun u =>
          u.cpsr = s.cpsr ∧ u.pc = s.pc + 4#32 ∧ u.regs = t.regs ∧ u.mem = s.mem)

/-- Under ARM_COMPLETION the undefined gap, the other undefined encodings, the coprocessor instructions and the fallback,
when ready, answer a state in Undefined mode with R14_und = pc + 4, SPSR_und = the old CPSR, I = 1, T = 0, F
unchanged, pc = 4, and nothing else changed: no base is read or written back, no memory is written, Rd is neither
read nor written. [R915; R921] -/
def Obligations.UndefinedInstructionEnters : Prop :=
  ∀ (i : Instr) (s : State), trapsUndefined i = true → s.armCompletion = true → Ready i s →
    Completes i s fun t => Enters 0x00000004#32 .und (s.pc + 4#32) s.cpsr.f s t ∧ t.ldmUserHazard = false

/-- Under ARM_COMPLETION: IRQ entry happens only while I = 0 and FIQ entry only while F = 0, each saving pc + 4 and the
CPSR and going to its vector in its mode with IRQ masked, FIQ entry masking FIQ too; with both lines asserted FIQ is
taken first, and IRQ is delivered while FIQ is masked. That the entry applies also to a state that has no next step,
with a fault record or in Thumb state, is the model's choice (entry 18). From an IRQ entry made in ARM state at an
aligned pc without a pending hazard and with every flag written, SUBS PC, R14, #4 restores the CPSR and the
interrupted pc. [60_exceptions.md section 4] -/
def Obligations.InterruptEntryAndReturn : Prop :=
  ∀ s : State, s.armCompletion = true →
    (s.cpsr.i = false → Enters 0x00000018#32 .irq (s.pc + 4#32) s.cpsr.f s s.takeIrq) ∧
    (s.cpsr.i = true → s.takeIrq = s) ∧
    (s.cpsr.f = false → Enters 0x0000001C#32 .fiq (s.pc + 4#32) true s s.takeFiq) ∧
    (s.cpsr.f = true → s.takeFiq = s) ∧
    (∀ irqLine, s.cpsr.f = false → s.deliver irqLine true = s.takeFiq) ∧
    (∀ fiqLine, s.cpsr.f = true ∨ fiqLine = false → s.deliver true fiqLine = s.takeIrq) ∧
    (s.cpsr.i = false → s.cpsr.t = false → s.pc.extractLsb' 0 2 = 0#2 → s.ldmUserHazard = false →
      (∀ p ∈ flagParts, p ∉ s.unwritten) →
      Completes (.sub .al true 14 15 (.imm 0#4 4#8)) s.takeIrq fun u =>
        u.cpsr = s.cpsr ∧ u.pc = s.pc ∧ u.mem = s.mem ∧ u.regs = s.takeIrq.regs)

/-- For every instruction and state with a next state: the mode changes only by MSR CPSR with field c outside User mode
or, under ARM_COMPLETION, by an exception entry or return; T becomes 1 only by BX with an odd target or, under
ARM_COMPLETION, by a return whose saved T is 1; an SPSR changes only by MSR SPSR, and then only the current mode's,
or, under ARM_COMPLETION, by an exception entry. The fault record and the setting never change. A return takes in LDM
with S = 1 and an empty list (the model's reading, entry 13). [10_state.md section 3; 60_exceptions.md sections 3 to
5] -/
def Obligations.WhatChangesModeThumbAndSpsr : Prop :=
  ∀ (i : Instr) (s t : State), exec i s = .next t →
    (t.cpsr.mode ≠ s.cpsr.mode →
      (∃ ff v, msrSpec i s = some (.cpsr, ff, true, v) ∧ s.cpsr.mode ≠ .usr) ∨
        (s.armCompletion = true ∧
          ((∃ c n, i = .swi c n) ∨ trapsUndefined i = true ∨ returnsFromException i s = true))) ∧
    (s.cpsr.t = false → t.cpsr.t = true →
      (∃ c rm, i = .bx c rm ∧ (readReg s rm).getLsbD 0 = true) ∨
        (s.armCompletion = true ∧ returnsFromException i s = true ∧
          ∃ p, spsrOf s.cpsr.mode s = some p ∧ p.control.getLsbD 5 = true)) ∧
    (∀ m, spsrOf m t ≠ spsrOf m s →
      (m = s.cpsr.mode ∧ ∃ ff cf v, msrSpec i s = some (.spsr, ff, cf, v)) ∨
        (s.armCompletion = true ∧ ((∃ c n, i = .swi c n) ∨ trapsUndefined i = true))) ∧
    t.fault = s.fault ∧ t.armCompletion = s.armCompletion

/-- If an instruction's next state has other flags than the state before, it is a data-processing instruction with S = 1,
MUL or MLA with S = 1, or an MSR to the CPSR with field f, or, under ARM_COMPLETION, a long multiply with S = 1 or an
exception return, which takes in LDM with S = 1 and an empty list (the model's reading, entry 13). [10_state.md
section 3] -/
def Obligations.FlagWriters : Prop :=
  ∀ (i : Instr) (s t : State), exec i s = .next t → t.cpsr.flags ≠ s.cpsr.flags →
    (∃ d, dataSpec i s = some d ∧ d.sf = true) ∨ (∃ f, testSpec i s = some f) ∨
    (∃ c rd rn rs rm, i = .mul c true rd rn rs rm ∨ i = .mla c true rd rn rs rm) ∨
    (∃ cf v, msrSpec i s = some (.cpsr, true, cf, v)) ∨
    (s.armCompletion = true ∧
      ((∃ l, longSpec i s = some l ∧ l.sf = true) ∨ returnsFromException i s = true))

/-- In the normative setting, from any User-mode state with a next state: the mode stays User, I and F and every SPSR are
unchanged, and so is every physical register that the User view does not name, and whether it or an SPSR part holds a
value. A program that enters User mode can never leave it. [60_exceptions.md sections 4 and 5] -/
def Obligations.NormativeUserModeConfined : Prop :=
  ∀ s t : State, s.armCompletion = false → s.cpsr.mode = .usr → step s = .next t →
    t.armCompletion = false ∧ t.cpsr.mode = .usr ∧ t.cpsr.i = s.cpsr.i ∧ t.cpsr.f = s.cpsr.f ∧
    (∀ m, spsrOf m t = spsrOf m s) ∧ (∀ p : UnwrittenPart, ¬p.userSees → (p ∈ t.unwritten ↔ p ∈ s.unwritten)) ∧
    ∀ p, (∀ r, view .usr r ≠ some p) → t.regs.get p = s.regs.get p

/-- In the normative setting, take two User-mode states that agree on everything but the banked registers outside the
User view and the SPSRs, and on which of those hold a value. Their steps have the same outcome: the same fault, the
same refusal, or next states that agree in the same sense. [60_exceptions.md section 5; 10_state.md section 2] -/
def Obligations.NormativeUserModeBlind : Prop :=
  let agree := fun s s' : State =>
    s'.regs.low = s.regs.low ∧ s'.regs.usr = s.regs.usr ∧ s'.pc = s.pc ∧ s'.cpsr = s.cpsr ∧ s'.mem = s.mem ∧
      s'.ldmUserHazard = s.ldmUserHazard ∧ s'.fault = s.fault ∧ s'.armCompletion = s.armCompletion ∧
      s'.draws = s.draws ∧ ∀ p : UnwrittenPart, p.userSees → (p ∈ s'.unwritten ↔ p ∈ s.unwritten)
  ∀ s s' : State, s.armCompletion = false → s.cpsr.mode = .usr → agree s s' →
    (∀ t, step s = .next t → ∃ t', step s' = .next t' ∧ agree t t') ∧
    (∀ f, step s = .fault f → step s' = .fault f) ∧
    (∀ r, step s = .refused r → step s' = .refused r)

/-- Compare a ready instruction's outcome with that in the state where every part is written. A fault there that its
word, the mode or the setting decides it raises, whatever is unwritten. If it depends on an unwritten part and would
complete there, or fault SelfModifyHazard, or fault by a computed value (a misaligned pc or BX target, an MSR value,
a saved mode that is no mode), it faults UnwrittenRead with such a part. If nothing it depends on is unwritten, it
has the same outcome, marks apart: leaving an unwritten value unchanged is no dependence. [10_state.md section 6;
60_exceptions.md section 2; 42_data_processing.md section 1; 43_multiply.md sections 1 and 2; 44_status_transfer.md
section 2; 46_single_transfer.md section 1; 48_block_transfer.md section 1] -/
def Obligations.UnwrittenReads : Prop :=
  ∀ (i : Instr) (s : State), Ready i s →
    let all := { s with unwritten := [] }
    (∀ f, exec i all = .fault f → (∀ a, f ≠ .selfModifyHazard a) → ¬decidedByValue i f → exec i s = .fault f) ∧
    (¬Written i s →
      (∃ t, exec i all = .next t) ∨ (∃ a, exec i all = .fault (.selfModifyHazard a)) ∨
        (∃ f, exec i all = .fault f ∧ decidedByValue i f) →
      ∃ p ∈ dependsOn i s, p ∈ s.unwritten ∧ exec i s = .fault (.unwrittenRead p)) ∧
    (Written i s →
      (∀ t, exec i all = .next t → ∃ u, exec i s = .next u ∧ { u with unwritten := [] } = t) ∧
      ∀ f, exec i all = .fault f → exec i s = .fault f)

/-- When an instruction whose condition passes has a next state, the parts it gives a value hold one there, all others
are as they were: a logical opcode leaves V, and C when the shifter keeps it, MUL and MLA leave V, MSR leaves the
parts outside its mask. An exception entry gives R14 and the SPSR of its mode a value, but the SPSR's flags part has
none if one of the four saved flags had none (the model's reading of the two parts, entry 28). [10_state.md section
6; 42_data_processing.md section 1; 43_multiply.md section 1; 44_status_transfer.md section 2; 60_exceptions.md
section 4] -/
def Obligations.MarksFollowWrites : Prop :=
  ∀ (i : Instr) (s t : State), exec i s = .next t → condPass i.cond s.cpsr.flags = true →
    ∀ p, p ∈ t.unwritten ↔
      (p ∈ s.unwritten ∧ p ∉ gives i s) ∨
        ∃ m, savesInto i = some m ∧ p = .spsrFlags m ∧ ∃ q ∈ flagParts, q ∈ s.unwritten

/-- Take two states that agree in everything that holds a value, and mark the same parts as unwritten; the fields of
those parts may differ. Their steps have the same outcome: the same fault, the same refusal, or next states that
agree in the same sense. So a step depends on no part without a value. [10_state.md section 6] -/
def Obligations.UnwrittenValuesUnseen : Prop :=
  ∀ s s' : State, SameWritten s s' →
    (∀ t, step s = .next t → ∃ t', step s' = .next t' ∧ SameWritten t t') ∧
    (∀ f, step s = .fault f → step s' = .fault f) ∧
    (∀ r, step s = .refused r → step s' = .refused r)

end
end

