-- ==== Sys2Proof/Laws/Decode.lean ====
section
/-! SUPPORT. Fields of a word built from fields (30_encoding R301 to R309): a field read back where it was put, zero
where another one was put. -/

namespace Sys2Proof

theorem getLsbD_put {n : Nat} (lo : Nat) (v : BitVec n) (i : Nat) :
    (put lo v).getLsbD i = (decide (i < 32) && decide (lo ≤ i) && v.getLsbD (i - lo)) := by
  unfold put
  rw [BitVec.getLsbD_shiftLeft, BitVec.getLsbD_setWidth]
  by_cases h : i < 32 <;> by_cases h' : lo ≤ i
  · simp [h, h', show ¬ i < lo by omega, show i - lo < 32 by omega]
  · simp [h, h', show i < lo by omega]
  · simp [h]
  · simp [h]

@[simp] theorem field_or (a b : Word) (lo len : Nat) : field (a ||| b) lo len = field a lo len ||| field b lo len := by
  apply BitVec.eq_of_getLsbD_eq
  intro i hi
  simp [field, BitVec.getLsbD_or, Bool.and_or_distrib_left]

/-- A field inside another one that was put. -/
theorem field_put_inside {n lo len p : Nat} (v : BitVec n) (h : p ≤ lo) (h' : lo + len ≤ 32) :
    field (put p v) lo len = v.extractLsb' (lo - p) len := by
  apply BitVec.eq_of_getLsbD_eq
  intro i hi
  simp only [field, BitVec.getLsbD_extractLsb', getLsbD_put, hi, decide_true, Bool.true_and]
  rw [decide_eq_true (by omega), decide_eq_true (by omega), show lo + i - p = lo - p + i by omega]
  simp

/-- A field read back. -/
theorem field_put_same {n p : Nat} (v : BitVec n) (h : p + n ≤ 32) : field (put p v) p n = v := by
  rw [field_put_inside v (Nat.le_refl _) h]
  apply BitVec.eq_of_getLsbD_eq
  intro i hi
  simp [hi]

/-- A field below the one that was put. -/
theorem field_put_below {n p lo len : Nat} (v : BitVec n) (h : lo + len ≤ p) : field (put p v) lo len = 0#len := by
  apply BitVec.eq_of_getLsbD_eq
  intro i hi
  simp only [field, BitVec.getLsbD_extractLsb', getLsbD_put, BitVec.getLsbD_zero]
  rw [decide_eq_false (show ¬ p ≤ lo + i by omega)]
  simp

/-- A field above the one that was put. -/
theorem field_put_above {n p lo len : Nat} (v : BitVec n) (h : p + n ≤ lo) : field (put p v) lo len = 0#len := by
  apply BitVec.eq_of_getLsbD_eq
  intro i hi
  simp only [field, BitVec.getLsbD_extractLsb', getLsbD_put, BitVec.getLsbD_zero]
  rw [BitVec.getLsbD_of_ge v (lo + i - p) (by omega)]
  simp

@[simp] theorem bitAt_or (a b : Word) (i : Nat) : bitAt (a ||| b) i = (bitAt a i || bitAt b i) := by
  simp [bitAt]

theorem bitAt_put {n : Nat} (p : Nat) (v : BitVec n) (i : Nat) :
    bitAt (put p v) i = (decide (i < 32) && decide (p ≤ i) && v.getLsbD (i - p)) :=
  getLsbD_put p v i

/-- A register number read back. -/
theorem toFin_ofFin (r : RegIdx) : (BitVec.ofFin (w := 4) r).toFin = r := rfl

/-- A condition read back (40_dispatch R420). -/
@[simp] theorem condOf_code (c : Cond) : condOf c.code = some c := by cases c <;> rfl

/-- NV is the one code of no condition (40_dispatch R421). -/
theorem condOf_eq_none {v : BitVec 4} : condOf v = none ↔ v = 15#4 := by
  revert v; decide

/-- A shift type read back (30_encoding R302). -/
@[simp] theorem shiftTypeOf_code (t : ShiftType) : shiftTypeOf t.code = t := by cases t <;> rfl

/-- The PSR select read back. -/
@[simp] theorem psrSelOf_bit (p : PsrSel) : psrSelOf p.bit = p := by cases p <;> rfl

/-- Four bytes laid out and joined again (20_memory R202). -/
@[simp] theorem bytesWord_wordBytes (v : Word) :
    bytesWord (v.extractLsb' 0 8) (v.extractLsb' 8 8) (v.extractLsb' 16 8) (v.extractLsb' 24 8) = v := by
  apply BitVec.eq_of_getLsbD_eq
  intro i hi
  simp only [bytesWord, BitVec.getLsbD_append, BitVec.getLsbD_extractLsb']
  by_cases h1 : i < 8
  · simp [h1]
  · by_cases h2 : i - 8 < 8
    · simp [h1, h2, show 8 + (i - 8) = i by omega]
    · by_cases h3 : i - 8 - 8 < 8
      · simp [h1, h2, h3, show 16 + (i - 8 - 8) = i by omega]
      · simp [h1, h2, h3, show 24 + (i - 8 - 8 - 8) = i by omega, show i - 8 - 8 - 8 < 8 by omega]

end Sys2Proof
end

