-- ==== Sys2Proof/Laws/State.lean ====
section
/-! SUPPORT. One lemma per field of State per update, so that no proof unfolds an update; the same for reading a register
or a saved status through an update. -/

namespace Sys2Proof.Machine

/-! ## stepPc -/

@[simp] theorem stepPc_regs (s : State) : (stepPc s).regs = s.regs := rfl
@[simp] theorem stepPc_pc (s : State) : (stepPc s).pc = s.pc + 4#32 := rfl
@[simp] theorem stepPc_cpsr (s : State) : (stepPc s).cpsr = s.cpsr := rfl
@[simp] theorem stepPc_spsrFiq (s : State) : (stepPc s).spsrFiq = s.spsrFiq := rfl
@[simp] theorem stepPc_spsrIrq (s : State) : (stepPc s).spsrIrq = s.spsrIrq := rfl
@[simp] theorem stepPc_spsrSvc (s : State) : (stepPc s).spsrSvc = s.spsrSvc := rfl
@[simp] theorem stepPc_spsrAbt (s : State) : (stepPc s).spsrAbt = s.spsrAbt := rfl
@[simp] theorem stepPc_spsrUnd (s : State) : (stepPc s).spsrUnd = s.spsrUnd := rfl
@[simp] theorem stepPc_mem (s : State) : (stepPc s).mem = s.mem := rfl
@[simp] theorem stepPc_ldmUserHazard (s : State) : (stepPc s).ldmUserHazard = s.ldmUserHazard := rfl
@[simp] theorem stepPc_unwritten (s : State) : (stepPc s).unwritten = s.unwritten := rfl
@[simp] theorem stepPc_fault (s : State) : (stepPc s).fault = s.fault := rfl
@[simp] theorem stepPc_armCompletion (s : State) : (stepPc s).armCompletion = s.armCompletion := rfl
@[simp] theorem stepPc_draws (s : State) : (stepPc s).draws = s.draws := rfl

/-! ## clearHazard -/

@[simp] theorem clearHazard_regs (s : State) : (clearHazard s).regs = s.regs := rfl
@[simp] theorem clearHazard_pc (s : State) : (clearHazard s).pc = s.pc := rfl
@[simp] theorem clearHazard_cpsr (s : State) : (clearHazard s).cpsr = s.cpsr := rfl
@[simp] theorem clearHazard_spsrFiq (s : State) : (clearHazard s).spsrFiq = s.spsrFiq := rfl
@[simp] theorem clearHazard_spsrIrq (s : State) : (clearHazard s).spsrIrq = s.spsrIrq := rfl
@[simp] theorem clearHazard_spsrSvc (s : State) : (clearHazard s).spsrSvc = s.spsrSvc := rfl
@[simp] theorem clearHazard_spsrAbt (s : State) : (clearHazard s).spsrAbt = s.spsrAbt := rfl
@[simp] theorem clearHazard_spsrUnd (s : State) : (clearHazard s).spsrUnd = s.spsrUnd := rfl
@[simp] theorem clearHazard_mem (s : State) : (clearHazard s).mem = s.mem := rfl
@[simp] theorem clearHazard_ldmUserHazard (s : State) : (clearHazard s).ldmUserHazard = false := rfl
@[simp] theorem clearHazard_unwritten (s : State) : (clearHazard s).unwritten = s.unwritten := rfl
@[simp] theorem clearHazard_fault (s : State) : (clearHazard s).fault = s.fault := rfl
@[simp] theorem clearHazard_armCompletion (s : State) : (clearHazard s).armCompletion = s.armCompletion := rfl
@[simp] theorem clearHazard_draws (s : State) : (clearHazard s).draws = s.draws := rfl

/-! ## afterDraw -/

@[simp] theorem afterDraw_regs (s : State) : (afterDraw s).regs = s.regs := rfl
@[simp] theorem afterDraw_pc (s : State) : (afterDraw s).pc = s.pc := rfl
@[simp] theorem afterDraw_cpsr (s : State) : (afterDraw s).cpsr = s.cpsr := rfl
@[simp] theorem afterDraw_spsrFiq (s : State) : (afterDraw s).spsrFiq = s.spsrFiq := rfl
@[simp] theorem afterDraw_spsrIrq (s : State) : (afterDraw s).spsrIrq = s.spsrIrq := rfl
@[simp] theorem afterDraw_spsrSvc (s : State) : (afterDraw s).spsrSvc = s.spsrSvc := rfl
@[simp] theorem afterDraw_spsrAbt (s : State) : (afterDraw s).spsrAbt = s.spsrAbt := rfl
@[simp] theorem afterDraw_spsrUnd (s : State) : (afterDraw s).spsrUnd = s.spsrUnd := rfl
@[simp] theorem afterDraw_mem (s : State) : (afterDraw s).mem = s.mem := rfl
@[simp] theorem afterDraw_ldmUserHazard (s : State) : (afterDraw s).ldmUserHazard = s.ldmUserHazard := rfl
@[simp] theorem afterDraw_unwritten (s : State) : (afterDraw s).unwritten = s.unwritten := rfl
@[simp] theorem afterDraw_fault (s : State) : (afterDraw s).fault = s.fault := rfl
@[simp] theorem afterDraw_armCompletion (s : State) : (afterDraw s).armCompletion = s.armCompletion := rfl
@[simp] theorem afterDraw_draws (s : State) : (afterDraw s).draws = s.draws + 1 := rfl

/-! ## give -/

@[simp] theorem give_regs (ps : List UnwrittenPart) (s : State) : (give ps s).regs = s.regs := rfl
@[simp] theorem give_pc (ps : List UnwrittenPart) (s : State) : (give ps s).pc = s.pc := rfl
@[simp] theorem give_cpsr (ps : List UnwrittenPart) (s : State) : (give ps s).cpsr = s.cpsr := rfl
@[simp] theorem give_spsrFiq (ps : List UnwrittenPart) (s : State) : (give ps s).spsrFiq = s.spsrFiq := rfl
@[simp] theorem give_spsrIrq (ps : List UnwrittenPart) (s : State) : (give ps s).spsrIrq = s.spsrIrq := rfl
@[simp] theorem give_spsrSvc (ps : List UnwrittenPart) (s : State) : (give ps s).spsrSvc = s.spsrSvc := rfl
@[simp] theorem give_spsrAbt (ps : List UnwrittenPart) (s : State) : (give ps s).spsrAbt = s.spsrAbt := rfl
@[simp] theorem give_spsrUnd (ps : List UnwrittenPart) (s : State) : (give ps s).spsrUnd = s.spsrUnd := rfl
@[simp] theorem give_mem (ps : List UnwrittenPart) (s : State) : (give ps s).mem = s.mem := rfl
@[simp] theorem give_ldmUserHazard (ps : List UnwrittenPart) (s : State) : (give ps s).ldmUserHazard = s.ldmUserHazard := rfl
@[simp] theorem give_fault (ps : List UnwrittenPart) (s : State) : (give ps s).fault = s.fault := rfl
@[simp] theorem give_armCompletion (ps : List UnwrittenPart) (s : State) : (give ps s).armCompletion = s.armCompletion := rfl
@[simp] theorem give_draws (ps : List UnwrittenPart) (s : State) : (give ps s).draws = s.draws := rfl

/-- A part is without a value after a gift when it was before and is not given one (10_state R121). -/
@[simp] theorem mem_give {ps : List UnwrittenPart} {s : State} {p : UnwrittenPart} :
    p ∈ (give ps s).unwritten ↔ p ∈ s.unwritten ∧ p ∉ ps := by
  simp [give]

/-- Where every part holds a value, each keeps one. -/
theorem give_unwritten_nil {ps : List UnwrittenPart} {s : State} (h : s.unwritten = []) : (give ps s).unwritten = [] := by
  simp [give, h]

@[simp] theorem give_nil (s : State) : give [] s = s := by
  simp [give]

/-! ## setFlags -/

@[simp] theorem setFlags_regs (ps : List UnwrittenPart) (f : Flags) (s : State) : (setFlags ps f s).regs = s.regs := rfl
@[simp] theorem setFlags_pc (ps : List UnwrittenPart) (f : Flags) (s : State) : (setFlags ps f s).pc = s.pc := rfl
@[simp] theorem setFlags_cpsr (ps : List UnwrittenPart) (f : Flags) (s : State) : (setFlags ps f s).cpsr = { s.cpsr with flags := f } := rfl
@[simp] theorem setFlags_spsrFiq (ps : List UnwrittenPart) (f : Flags) (s : State) : (setFlags ps f s).spsrFiq = s.spsrFiq := rfl
@[simp] theorem setFlags_spsrIrq (ps : List UnwrittenPart) (f : Flags) (s : State) : (setFlags ps f s).spsrIrq = s.spsrIrq := rfl
@[simp] theorem setFlags_spsrSvc (ps : List UnwrittenPart) (f : Flags) (s : State) : (setFlags ps f s).spsrSvc = s.spsrSvc := rfl
@[simp] theorem setFlags_spsrAbt (ps : List UnwrittenPart) (f : Flags) (s : State) : (setFlags ps f s).spsrAbt = s.spsrAbt := rfl
@[simp] theorem setFlags_spsrUnd (ps : List UnwrittenPart) (f : Flags) (s : State) : (setFlags ps f s).spsrUnd = s.spsrUnd := rfl
@[simp] theorem setFlags_mem (ps : List UnwrittenPart) (f : Flags) (s : State) : (setFlags ps f s).mem = s.mem := rfl
@[simp] theorem setFlags_ldmUserHazard (ps : List UnwrittenPart) (f : Flags) (s : State) : (setFlags ps f s).ldmUserHazard = s.ldmUserHazard := rfl
@[simp] theorem setFlags_fault (ps : List UnwrittenPart) (f : Flags) (s : State) : (setFlags ps f s).fault = s.fault := rfl
@[simp] theorem setFlags_armCompletion (ps : List UnwrittenPart) (f : Flags) (s : State) : (setFlags ps f s).armCompletion = s.armCompletion := rfl
@[simp] theorem setFlags_draws (ps : List UnwrittenPart) (f : Flags) (s : State) : (setFlags ps f s).draws = s.draws := rfl

@[simp] theorem setFlags_unwritten (ps : List UnwrittenPart) (f : Flags) (s : State) :
    (setFlags ps f s).unwritten = (give ps s).unwritten := rfl

/-! ## setFlagsIf -/

@[simp] theorem setFlagsIf_regs (b : Bool) (ps : List UnwrittenPart) (f : Flags) (s : State) : (setFlagsIf b ps f s).regs = s.regs := by
  cases b <;> rfl
@[simp] theorem setFlagsIf_pc (b : Bool) (ps : List UnwrittenPart) (f : Flags) (s : State) : (setFlagsIf b ps f s).pc = s.pc := by
  cases b <;> rfl
@[simp] theorem setFlagsIf_spsrFiq (b : Bool) (ps : List UnwrittenPart) (f : Flags) (s : State) : (setFlagsIf b ps f s).spsrFiq = s.spsrFiq := by
  cases b <;> rfl
@[simp] theorem setFlagsIf_spsrIrq (b : Bool) (ps : List UnwrittenPart) (f : Flags) (s : State) : (setFlagsIf b ps f s).spsrIrq = s.spsrIrq := by
  cases b <;> rfl
@[simp] theorem setFlagsIf_spsrSvc (b : Bool) (ps : List UnwrittenPart) (f : Flags) (s : State) : (setFlagsIf b ps f s).spsrSvc = s.spsrSvc := by
  cases b <;> rfl
@[simp] theorem setFlagsIf_spsrAbt (b : Bool) (ps : List UnwrittenPart) (f : Flags) (s : State) : (setFlagsIf b ps f s).spsrAbt = s.spsrAbt := by
  cases b <;> rfl
@[simp] theorem setFlagsIf_spsrUnd (b : Bool) (ps : List UnwrittenPart) (f : Flags) (s : State) : (setFlagsIf b ps f s).spsrUnd = s.spsrUnd := by
  cases b <;> rfl
@[simp] theorem setFlagsIf_mem (b : Bool) (ps : List UnwrittenPart) (f : Flags) (s : State) : (setFlagsIf b ps f s).mem = s.mem := by
  cases b <;> rfl
@[simp] theorem setFlagsIf_ldmUserHazard (b : Bool) (ps : List UnwrittenPart) (f : Flags) (s : State) : (setFlagsIf b ps f s).ldmUserHazard = s.ldmUserHazard := by
  cases b <;> rfl
@[simp] theorem setFlagsIf_fault (b : Bool) (ps : List UnwrittenPart) (f : Flags) (s : State) : (setFlagsIf b ps f s).fault = s.fault := by
  cases b <;> rfl
@[simp] theorem setFlagsIf_armCompletion (b : Bool) (ps : List UnwrittenPart) (f : Flags) (s : State) : (setFlagsIf b ps f s).armCompletion = s.armCompletion := by
  cases b <;> rfl
@[simp] theorem setFlagsIf_draws (b : Bool) (ps : List UnwrittenPart) (f : Flags) (s : State) : (setFlagsIf b ps f s).draws = s.draws := by
  cases b <;> rfl
@[simp] theorem setFlagsIf_cpsr (b : Bool) (ps : List UnwrittenPart) (f : Flags) (s : State) :
    (setFlagsIf b ps f s).cpsr = { s.cpsr with flags := if b then f else s.cpsr.flags } := by
  cases b <;> rfl

@[simp] theorem setFlagsIf_unwritten (b : Bool) (ps : List UnwrittenPart) (f : Flags) (s : State) :
    (setFlagsIf b ps f s).unwritten = (give (if b then ps else []) s).unwritten := by
  cases b <;> simp [setFlagsIf]

/-! ## writeRegIn and writeReg -/

@[simp] theorem writeRegIn_pc (m : Mode) (r : RegIdx) (v : Word) (s : State) :
    (writeRegIn m r v s).pc = s.pc := by
  unfold writeRegIn; split <;> rfl
@[simp] theorem writeReg_pc (r : RegIdx) (v : Word) (s : State) : (writeReg r v s).pc = s.pc :=
  writeRegIn_pc ..
@[simp] theorem writeRegIn_cpsr (m : Mode) (r : RegIdx) (v : Word) (s : State) :
    (writeRegIn m r v s).cpsr = s.cpsr := by
  unfold writeRegIn; split <;> rfl
@[simp] theorem writeReg_cpsr (r : RegIdx) (v : Word) (s : State) : (writeReg r v s).cpsr = s.cpsr :=
  writeRegIn_cpsr ..
@[simp] theorem writeRegIn_spsrFiq (m : Mode) (r : RegIdx) (v : Word) (s : State) :
    (writeRegIn m r v s).spsrFiq = s.spsrFiq := by
  unfold writeRegIn; split <;> rfl
@[simp] theorem writeReg_spsrFiq (r : RegIdx) (v : Word) (s : State) : (writeReg r v s).spsrFiq = s.spsrFiq :=
  writeRegIn_spsrFiq ..
@[simp] theorem writeRegIn_spsrIrq (m : Mode) (r : RegIdx) (v : Word) (s : State) :
    (writeRegIn m r v s).spsrIrq = s.spsrIrq := by
  unfold writeRegIn; split <;> rfl
@[simp] theorem writeReg_spsrIrq (r : RegIdx) (v : Word) (s : State) : (writeReg r v s).spsrIrq = s.spsrIrq :=
  writeRegIn_spsrIrq ..
@[simp] theorem writeRegIn_spsrSvc (m : Mode) (r : RegIdx) (v : Word) (s : State) :
    (writeRegIn m r v s).spsrSvc = s.spsrSvc := by
  unfold writeRegIn; split <;> rfl
@[simp] theorem writeReg_spsrSvc (r : RegIdx) (v : Word) (s : State) : (writeReg r v s).spsrSvc = s.spsrSvc :=
  writeRegIn_spsrSvc ..
@[simp] theorem writeRegIn_spsrAbt (m : Mode) (r : RegIdx) (v : Word) (s : State) :
    (writeRegIn m r v s).spsrAbt = s.spsrAbt := by
  unfold writeRegIn; split <;> rfl
@[simp] theorem writeReg_spsrAbt (r : RegIdx) (v : Word) (s : State) : (writeReg r v s).spsrAbt = s.spsrAbt :=
  writeRegIn_spsrAbt ..
@[simp] theorem writeRegIn_spsrUnd (m : Mode) (r : RegIdx) (v : Word) (s : State) :
    (writeRegIn m r v s).spsrUnd = s.spsrUnd := by
  unfold writeRegIn; split <;> rfl
@[simp] theorem writeReg_spsrUnd (r : RegIdx) (v : Word) (s : State) : (writeReg r v s).spsrUnd = s.spsrUnd :=
  writeRegIn_spsrUnd ..
@[simp] theorem writeRegIn_mem (m : Mode) (r : RegIdx) (v : Word) (s : State) :
    (writeRegIn m r v s).mem = s.mem := by
  unfold writeRegIn; split <;> rfl
@[simp] theorem writeReg_mem (r : RegIdx) (v : Word) (s : State) : (writeReg r v s).mem = s.mem :=
  writeRegIn_mem ..
@[simp] theorem writeRegIn_ldmUserHazard (m : Mode) (r : RegIdx) (v : Word) (s : State) :
    (writeRegIn m r v s).ldmUserHazard = s.ldmUserHazard := by
  unfold writeRegIn; split <;> rfl
@[simp] theorem writeReg_ldmUserHazard (r : RegIdx) (v : Word) (s : State) : (writeReg r v s).ldmUserHazard = s.ldmUserHazard :=
  writeRegIn_ldmUserHazard ..
@[simp] theorem writeRegIn_fault (m : Mode) (r : RegIdx) (v : Word) (s : State) :
    (writeRegIn m r v s).fault = s.fault := by
  unfold writeRegIn; split <;> rfl
@[simp] theorem writeReg_fault (r : RegIdx) (v : Word) (s : State) : (writeReg r v s).fault = s.fault :=
  writeRegIn_fault ..
@[simp] theorem writeRegIn_armCompletion (m : Mode) (r : RegIdx) (v : Word) (s : State) :
    (writeRegIn m r v s).armCompletion = s.armCompletion := by
  unfold writeRegIn; split <;> rfl
@[simp] theorem writeReg_armCompletion (r : RegIdx) (v : Word) (s : State) : (writeReg r v s).armCompletion = s.armCompletion :=
  writeRegIn_armCompletion ..
@[simp] theorem writeRegIn_draws (m : Mode) (r : RegIdx) (v : Word) (s : State) :
    (writeRegIn m r v s).draws = s.draws := by
  unfold writeRegIn; split <;> rfl
@[simp] theorem writeReg_draws (r : RegIdx) (v : Word) (s : State) : (writeReg r v s).draws = s.draws :=
  writeRegIn_draws ..

@[simp] theorem writeRegIn_unwritten (m : Mode) (r : RegIdx) (v : Word) (s : State) :
    (writeRegIn m r v s).unwritten = (give (regPart m r) s).unwritten := by
  unfold writeRegIn regPart; split <;> simp_all; rfl
@[simp] theorem writeReg_unwritten (r : RegIdx) (v : Word) (s : State) :
    (writeReg r v s).unwritten = (give (regPart s.cpsr.mode r) s).unwritten := writeRegIn_unwritten ..

/-! ## setSpsr -/

@[simp] theorem setSpsr_regs (m : Mode) (p : Spsr) (s : State) : (setSpsr m p s).regs = s.regs := by
  cases m <;> rfl
@[simp] theorem setSpsr_pc (m : Mode) (p : Spsr) (s : State) : (setSpsr m p s).pc = s.pc := by
  cases m <;> rfl
@[simp] theorem setSpsr_cpsr (m : Mode) (p : Spsr) (s : State) : (setSpsr m p s).cpsr = s.cpsr := by
  cases m <;> rfl
@[simp] theorem setSpsr_mem (m : Mode) (p : Spsr) (s : State) : (setSpsr m p s).mem = s.mem := by
  cases m <;> rfl
@[simp] theorem setSpsr_ldmUserHazard (m : Mode) (p : Spsr) (s : State) : (setSpsr m p s).ldmUserHazard = s.ldmUserHazard := by
  cases m <;> rfl
@[simp] theorem setSpsr_fault (m : Mode) (p : Spsr) (s : State) : (setSpsr m p s).fault = s.fault := by
  cases m <;> rfl
@[simp] theorem setSpsr_armCompletion (m : Mode) (p : Spsr) (s : State) : (setSpsr m p s).armCompletion = s.armCompletion := by
  cases m <;> rfl
@[simp] theorem setSpsr_draws (m : Mode) (p : Spsr) (s : State) : (setSpsr m p s).draws = s.draws := by
  cases m <;> rfl

@[simp] theorem setSpsr_unwritten (m : Mode) (p : Spsr) (s : State) : (setSpsr m p s).unwritten = s.unwritten := by
  cases m <;> rfl

/-! ## enterException -/

@[simp] theorem enterException_pc (e : Exc) (ret : Word) (s : State) :
    (enterException e ret s).pc = e.vector := rfl
@[simp] theorem enterException_cpsr (e : Exc) (ret : Word) (s : State) :
    (enterException e ret s).cpsr = { flags := s.cpsr.flags, i := true, f := s.cpsr.f || e.masksFiq, t := false, mode := e.mode } := rfl
@[simp] theorem enterException_mem (e : Exc) (ret : Word) (s : State) : (enterException e ret s).mem = s.mem := by
  simp [enterException]
@[simp] theorem enterException_ldmUserHazard (e : Exc) (ret : Word) (s : State) : (enterException e ret s).ldmUserHazard = s.ldmUserHazard := by
  simp [enterException]
@[simp] theorem enterException_fault (e : Exc) (ret : Word) (s : State) : (enterException e ret s).fault = s.fault := by
  simp [enterException]
@[simp] theorem enterException_armCompletion (e : Exc) (ret : Word) (s : State) : (enterException e ret s).armCompletion = s.armCompletion := by
  simp [enterException]
@[simp] theorem enterException_draws (e : Exc) (ret : Word) (s : State) : (enterException e ret s).draws = s.draws := by
  simp [enterException]
/-- R14 and both parts of the SPSR of the mode entered are written; the SPSR's flags part has no value when a saved flag had
none, and no other mark changes (60_exceptions R1061). -/
theorem enterException_unwritten (e : Exc) (ret : Word) (s : State) :
    (enterException e ret s).unwritten =
      savedMarks e.mode s ++ (give (spsrParts e.mode) (writeRegIn e.mode 14 ret s)).unwritten := by
  simp [enterException, give]
@[simp] theorem enterException_regs (e : Exc) (ret : Word) (s : State) :
    (enterException e ret s).regs = (writeRegIn e.mode 14 ret s).regs := by
  simp [enterException]

/-! ## Saved status registers through an update -/

@[simp] theorem spsrOf_stepPc (m : Mode) (s : State) : spsrOf m (stepPc s) = spsrOf m s := by cases m <;> rfl
@[simp] theorem spsrOf_give (m : Mode) (ps : List UnwrittenPart) (s : State) : spsrOf m (give ps s) = spsrOf m s := by
  cases m <;> rfl
@[simp] theorem spsrOf_clearHazard (m : Mode) (s : State) : spsrOf m (clearHazard s) = spsrOf m s := by cases m <;> rfl
@[simp] theorem spsrOf_afterDraw (m : Mode) (s : State) : spsrOf m (afterDraw s) = spsrOf m s := by cases m <;> rfl
@[simp] theorem spsrOf_setFlags (m : Mode) (ps : List UnwrittenPart) (f : Flags) (s : State) : spsrOf m (setFlags ps f s) = spsrOf m s := by
  cases m <;> rfl
@[simp] theorem spsrOf_setFlagsIf (m : Mode) (b : Bool) (ps : List UnwrittenPart) (f : Flags) (s : State) :
    spsrOf m (setFlagsIf b ps f s) = spsrOf m s := by
  cases b <;> simp [setFlagsIf]
@[simp] theorem spsrOf_writeRegIn (m n : Mode) (r : RegIdx) (v : Word) (s : State) :
    spsrOf m (writeRegIn n r v s) = spsrOf m s := by
  cases m <;> simp [spsrOf]
@[simp] theorem spsrOf_writeReg (m : Mode) (r : RegIdx) (v : Word) (s : State) :
    spsrOf m (writeReg r v s) = spsrOf m s := spsrOf_writeRegIn ..

/-- A saved status register after a write of one: the one written holds the new value, the others what they held. -/
theorem spsrOf_setSpsr (m n : Mode) (p : Spsr) (s : State) :
    spsrOf m (setSpsr n p s) = if m = n ∧ n.hasSpsr = true then some p else spsrOf m s := by
  cases m <;> cases n <;> simp [spsrOf, setSpsr, Mode.hasSpsr]

/-- A mode has a saved status register exactly when it is an exception mode (10_state R108). -/
theorem spsrOf_isSome (m : Mode) (s : State) : (spsrOf m s).isSome = m.hasSpsr := by
  cases m <;> rfl

/-- The saved status register of an exception after it is entered, and the others (60_exceptions R1061). -/
theorem spsrOf_enterException (m : Mode) (e : Exc) (ret : Word) (s : State) :
    spsrOf m (enterException e ret s) = if m = e.mode then some (savedPsr s.cpsr) else spsrOf m s := by
  have h : ∀ c pc u t, spsrOf m { t with cpsr := c, pc := pc, unwritten := u } = spsrOf m t := by
    intros; cases m <;> rfl
  unfold enterException
  rw [h, spsrOf_give, spsrOf_setSpsr]
  cases e <;> cases m <;> simp [Exc.mode, Mode.hasSpsr]

end Sys2Proof.Machine
end

