-- ==== Sys2Proof/Laws/Registers.lean ====
section
/-! SUPPORT. Reading and writing physical and visible registers (10_state R103 to R105), and the mode encodings (R102). -/

namespace Sys2Proof.Machine

/-! ## Physical registers -/

theorem vector_get_set {n : Nat} (v : Vector Word n) (k j : Fin n) (x : Word) :
    (v.set k x).get j = if k = j then x else v.get j := by
  have h : ∀ (u : Vector Word n), u.get j = u[j.val] := fun _ => rfl
  rw [h, h, Vector.getElem_set]
  simp [Fin.ext_iff]

@[simp] theorem regs_get_set_same (r : Regs) (p : PhysReg) (v : Word) : (r.set p v).get p = v := by
  cases p <;> simp [Regs.get, Regs.set, vector_get_set]

theorem regs_get_set_other (r : Regs) {p q : PhysReg} (v : Word) (h : p ≠ q) : (r.set p v).get q = r.get q := by
  cases p <;> cases q <;> simp_all [Regs.get, Regs.set, vector_get_set]

theorem regs_get_set (r : Regs) (p q : PhysReg) (v : Word) :
    (r.set p v).get q = if p = q then v else r.get q := by
  split
  · subst_vars; simp
  · exact regs_get_set_other r v ‹_›

/-! ## Views -/

/-- Only R15 is no register of a bank (10_state R103). -/
theorem view_eq_none (m : Mode) (r : RegIdx) : view m r = none ↔ r = 15 := by
  cases m <;> revert r <;> decide

theorem view_pc (m : Mode) : view m 15 = none := (view_eq_none m 15).2 rfl

theorem view_isSome (m : Mode) {r : RegIdx} (h : r ≠ 15) : ∃ p, view m r = some p := by
  cases hv : view m r with
  | none => exact absurd ((view_eq_none m r).1 hv) h
  | some p => exact ⟨p, rfl⟩

/-- Two visible registers of one mode are never the same physical one (10_state R103). -/
theorem view_inj (m : Mode) (r q : RegIdx) (h : view m r = view m q) : r = q := by
  cases m <;> revert r q <;> decide

/-! ## Visible registers -/

theorem readRegIn_of_view {m : Mode} {s : State} {r : RegIdx} {p : PhysReg} (h : view m r = some p) :
    readRegIn m s r = s.regs.get p := by
  simp [readRegIn, h]

@[simp] theorem readRegIn_pc (m : Mode) (s : State) : readRegIn m s 15 = s.pc + 8#32 := by
  simp [readRegIn, view_pc]

@[simp] theorem readReg_pc (s : State) : readReg s 15 = s.pc + 8#32 := readRegIn_pc ..

theorem writeRegIn_of_view {m : Mode} {r : RegIdx} {p : PhysReg} (v : Word) (s : State) (h : view m r = some p) :
    writeRegIn m r v s = give [.reg p] { s with regs := s.regs.set p v } := by
  simp [writeRegIn, h]

theorem writeRegIn_r15 (m : Mode) (v : Word) (s : State) : writeRegIn m 15 v s = s := by
  simp [writeRegIn, view_pc]

/-- A register read after a write of a register, in any two views: the value where both name the same physical register,
else what it was. -/
theorem readRegIn_writeRegIn (m n : Mode) (r q : RegIdx) (v : Word) (s : State) :
    readRegIn n (writeRegIn m r v s) q = if view m r = view n q ∧ r ≠ 15 then v else readRegIn n s q := by
  by_cases hr : r = 15
  · simp [hr, writeRegIn_r15]
  · obtain ⟨p, hp⟩ := view_isSome m hr
    rw [writeRegIn_of_view v s hp]
    cases hq : view n q with
    | none => simp [readRegIn, hq, hp]
    | some p' => simp [readRegIn, hq, hp, hr, regs_get_set]

@[simp] theorem readReg_writeReg_same {r : RegIdx} (v : Word) (s : State) (h : r ≠ 15) :
    readReg (writeReg r v s) r = v := by
  simp [readReg, writeReg, readRegIn_writeRegIn, h]

theorem readReg_writeReg_other {r q : RegIdx} (v : Word) (s : State) (h : r ≠ q) :
    readReg (writeReg r v s) q = readReg s q := by
  simp only [readReg, writeReg, writeRegIn_cpsr, readRegIn_writeRegIn]
  rw [if_neg]
  exact fun ⟨hv, _⟩ => h (view_inj _ _ _ hv)

theorem readReg_writeReg (r q : RegIdx) (v : Word) (s : State) :
    readReg (writeReg r v s) q = if r = q ∧ r ≠ 15 then v else readReg s q := by
  by_cases h : r = q
  · subst h
    by_cases hr : r = 15
    · subst hr; simp [writeReg, writeRegIn_r15]
    · simp [hr]
  · simp [h, readReg_writeReg_other v s h]

/-- Reading a register sees the registers, the pc and the mode of a state, nothing else of it. -/
theorem readReg_congr {s t : State} (r : RegIdx) (hr : t.regs = s.regs) (hp : t.pc = s.pc)
    (hm : t.cpsr.mode = s.cpsr.mode) : readReg t r = readReg s r := by
  simp [readReg, readRegIn, hr, hp, hm]

@[simp] theorem readReg_clearHazard (s : State) (r : RegIdx) : readReg (clearHazard s) r = readReg s r := rfl
@[simp] theorem readReg_afterDraw (s : State) (r : RegIdx) : readReg (afterDraw s) r = readReg s r := rfl
@[simp] theorem readReg_give (ps : List UnwrittenPart) (s : State) (r : RegIdx) : readReg (give ps s) r = readReg s r := rfl
@[simp] theorem readReg_setFlags (ps : List UnwrittenPart) (f : Flags) (s : State) (r : RegIdx) :
    readReg (setFlags ps f s) r = readReg s r := rfl
@[simp] theorem readReg_setFlagsIf (b : Bool) (ps : List UnwrittenPart) (f : Flags) (s : State) (r : RegIdx) :
    readReg (setFlagsIf b ps f s) r = readReg s r := by
  cases b <;> rfl
@[simp] theorem readUser_clearHazard (s : State) (r : RegIdx) : readUser (clearHazard s) r = readUser s r := rfl
@[simp] theorem storeValue_clearHazard (s : State) (r : RegIdx) : storeValue (clearHazard s) r = storeValue s r := rfl

/-- A step of the pc moves the value of R15 only. -/
theorem readReg_stepPc {r : RegIdx} (s : State) (h : r ≠ 15) : readReg (stepPc s) r = readReg s r := by
  obtain ⟨p, hp⟩ := view_isSome s.cpsr.mode h
  simp [readReg, readRegIn, hp]

/-- The physical registers a write of a visible one leaves alone. -/
theorem get_writeReg_kept {r : RegIdx} {p : PhysReg} (v : Word) (s : State) (h : p ∉ physOf s [r]) :
    (writeReg r v s).regs.get p = s.regs.get p := by
  unfold writeReg writeRegIn
  split
  · rename_i q hq
    have hne : q ≠ p := by rintro rfl; exact h (by simp [physOf, hq])
    exact regs_get_set_other _ _ hne
  · rfl

theorem mem_physOf {s : State} {rs : List RegIdx} {p : PhysReg} :
    p ∈ physOf s rs ↔ ∃ r ∈ rs, view s.cpsr.mode r = some p := by
  simp [physOf]

/-! ## Modes -/

/-- Mode bits read back as the mode (10_state R102). -/
@[simp] theorem modeOf_bits (m : Mode) : modeOf m.bits = some m := by cases m <;> rfl

/-- Only the seven encodings of the table are modes (10_state R102). -/
theorem modeOf_eq_some {v : BitVec 5} {m : Mode} : modeOf v = some m ↔ v = m.bits := by
  cases m <;> revert v <;> decide

@[simp] theorem controlByte_mode (p : Cpsr) : (controlByte p).extractLsb' 0 5 = p.mode.bits := by
  rcases p with ⟨f, i, fq, t, m⟩
  simp only [controlByte]
  cases m <;> revert i fq t <;> decide

@[simp] theorem controlByte_thumb (p : Cpsr) : (controlByte p)[5] = p.t := by
  rw [← BitVec.getLsbD_eq_getElem]
  rcases p with ⟨f, i, fq, t, m⟩
  simp only [controlByte]
  cases m <;> revert i fq t <;> decide

@[simp] theorem controlByte_fiq (p : Cpsr) : (controlByte p)[6] = p.f := by
  rw [← BitVec.getLsbD_eq_getElem]
  rcases p with ⟨f, i, fq, t, m⟩
  simp only [controlByte]
  cases m <;> revert i fq t <;> decide

@[simp] theorem controlByte_irq (p : Cpsr) : (controlByte p)[7] = p.i := by
  rw [← BitVec.getLsbD_eq_getElem]
  rcases p with ⟨f, i, fq, t, m⟩
  simp only [controlByte]
  cases m <;> revert i fq t <;> decide

/-- A saved status restores the status it was saved from (60_exceptions R1061, R1070). -/
@[simp] theorem restoredPsr_savedPsr (p : Cpsr) : restoredPsr (savedPsr p) = some p := by
  simp [restoredPsr, savedPsr]

/-- The control byte of a restored status is the saved one: no bit is lost (60_exceptions R1070). -/
theorem controlByte_restoredPsr {p : Spsr} {c : Cpsr} (h : restoredPsr p = some c) : controlByte c = p.control := by
  rcases p with ⟨f, b⟩
  unfold restoredPsr at h
  split at h
  · cases h
  · rename_i m hm
    cases h
    rw [modeOf_eq_some] at hm
    simp only at hm
    have all : ∀ v : BitVec 8,
        v = v.extractLsb' 7 1 ++ v.extractLsb' 6 1 ++ v.extractLsb' 5 1 ++ v.extractLsb' 0 5 := by decide
    have hb := all b
    rw [hm] at hb
    have h1 : ∀ k, BitVec.ofBool (b.getLsbD k) = b.extractLsb' k 1 := by
      intro k; ext j hj; simp [show j = 0 by omega]
    simp only [controlByte, h1]
    exact hb.symm

/-! ## The word an MRS reads -/

/-- A bit of it, as a bit of the concatenation. -/
theorem psrWord_getLsbD (f : Flags) (c : BitVec 8) (d : Word) (k : Nat) :
    (psrWord f c d).getLsbD k = (BitVec.ofBool f.n ++ BitVec.ofBool f.z ++ BitVec.ofBool f.c ++ BitVec.ofBool f.v ++
      d.extractLsb' 0 20 ++ c : BitVec (1 + 1 + 1 + 1 + 20 + 8)).getLsbD k := rfl

/-- Bits 31:28 are the flags whatever is drawn (44_status R650). -/
theorem psrWord_flags (f : Flags) (c : BitVec 8) (d : Word) :
    (psrWord f c d).getLsbD 31 = f.n ∧ (psrWord f c d).getLsbD 30 = f.z ∧ (psrWord f c d).getLsbD 29 = f.c ∧
      (psrWord f c d).getLsbD 28 = f.v := by
  simp only [psrWord_getLsbD, BitVec.getLsbD_append]
  simp

/-- Bits 7:0 are the control byte whatever is drawn (44_status R650). -/
theorem psrWord_control (f : Flags) (c : BitVec 8) (d : Word) : (psrWord f c d).extractLsb' 0 8 = c := by
  apply BitVec.eq_of_getLsbD_eq
  intro i hi
  simp only [BitVec.getLsbD_extractLsb', psrWord_getLsbD, BitVec.getLsbD_append]
  simp [hi]

end Sys2Proof.Machine
end

