-- ==== Sys2Proof/Laws/Memory.lean ====
section
/-! SUPPORT. Memory: what a byte reads as after a write, and that every write keeps the canonical form (20_memory R201,
R204). -/

namespace Sys2Proof.Machine

/-! ## One byte -/

theorem memGet_memErase (m : Memory) (a x : Nat) :
    memGet (memErase m a) x = if x = a then unlistedByte else memGet m x := by
  unfold memErase
  induction m with
  | nil => simp [memGet]
  | cons cell rest ih =>
    rcases cell with ⟨k, v⟩
    by_cases hk : k = a
    · subst hk
      by_cases hx : x = k
      · simpa [hx] using ih
      · have hx' : k ≠ x := fun h => hx h.symm
        simpa [memGet, hx, hx'] using ih
    · by_cases hx : k = x
      · subst hx; simp [memGet, hk]
      · simpa [memGet, hk, hx] using ih

theorem memGet_memInsert (m : Memory) (a x : Nat) (v : Byte) (h : ∀ c ∈ m, c.1 ≠ a) :
    memGet (memInsert m a v) x = if x = a then v else memGet m x := by
  induction m with
  | nil =>
    by_cases hx : x = a
    · simp [memInsert, memGet, hx]
    · simp [memInsert, memGet, hx, Ne.symm hx]
  | cons cell rest ih =>
    rcases cell with ⟨k, w⟩
    have hk : k ≠ a := h (k, w) (by simp)
    have ih := ih fun c hc => h c (by simp [hc])
    unfold memInsert
    split
    · by_cases hx : x = a
      · simp [memGet, hx]
      · simp [memGet, hx, Ne.symm hx]
    · by_cases hx : k = x
      · subst hx; simp [memGet, hk]
      · simp [memGet, hx, ih]

theorem key_memErase {m : Memory} {a : Nat} : ∀ c ∈ memErase m a, c.1 ≠ a := by
  simp [memErase]

/-- A byte reads as the last value written to it (20_memory R204, R217). -/
theorem memGet_memSet (m : Memory) (a x : Nat) (v : Byte) :
    memGet (memSet m a v) x = if x = a then v else memGet m x := by
  unfold memSet
  split
  · simp_all [memGet_memErase]
  · rw [memGet_memInsert _ _ _ _ key_memErase, memGet_memErase]
    split <;> simp_all

/-! ## Canonical form -/

theorem memWfFrom_mono {m : Memory} {lo lo' : Nat} (h : lo' ≤ lo) (wf : memWfFrom lo m = true) :
    memWfFrom lo' m = true := by
  cases m with
  | nil => rfl
  | cons cell rest =>
    simp only [memWfFrom, Bool.and_eq_true, decide_eq_true_eq] at wf ⊢
    exact ⟨⟨⟨by omega, wf.1.1.2⟩, wf.1.2⟩, wf.2⟩

theorem memWfFrom_erase {m : Memory} {lo : Nat} (a : Nat) (wf : memWfFrom lo m = true) :
    memWfFrom lo (memErase m a) = true := by
  unfold memErase
  induction m generalizing lo with
  | nil => rfl
  | cons cell rest ih =>
    simp only [memWfFrom, Bool.and_eq_true, decide_eq_true_eq, bne_iff_ne, ne_eq] at wf
    by_cases hk : cell.1 = a
    · simpa [hk] using memWfFrom_mono (by omega) (ih wf.2)
    · simp only [List.filter_cons, bne_iff_ne, ne_eq, hk, not_false_eq_true, if_true, memWfFrom, Bool.and_eq_true,
        decide_eq_true_eq]
      exact ⟨wf.1, ih wf.2⟩

theorem memWfFrom_insert {m : Memory} {lo a : Nat} {v : Byte} (wf : memWfFrom lo m = true) (hlo : lo ≤ a)
    (ha : a < 2 ^ 32) (hv : v ≠ unlistedByte) (hk : ∀ c ∈ m, c.1 ≠ a) : memWfFrom lo (memInsert m a v) = true := by
  induction m generalizing lo with
  | nil => simpa [memInsert, memWfFrom, hlo, hv] using ha
  | cons cell rest ih =>
    rcases cell with ⟨k, w⟩
    have hne : k ≠ a := hk (k, w) (by simp)
    simp only [memWfFrom, Bool.and_eq_true, decide_eq_true_eq] at wf
    unfold memInsert
    split
    · simp only [memWfFrom, Bool.and_eq_true, decide_eq_true_eq, bne_iff_ne, ne_eq] at *
      exact ⟨⟨⟨hlo, ha⟩, hv⟩, ⟨⟨by omega, wf.1.1.2⟩, wf.1.2⟩, wf.2⟩
    · simp only [memWfFrom, Bool.and_eq_true, decide_eq_true_eq]
      exact ⟨wf.1, ih wf.2 (by omega) fun c hc => hk c (by simp [hc])⟩

/-- Writing one byte keeps the canonical form. -/
theorem memSet_wf {m : Memory} {a : Nat} (v : Byte) (ha : a < 2 ^ 32) (wf : Memory.wf m = true) :
    Memory.wf (memSet m a v) = true := by
  unfold Memory.wf memSet at *
  split
  · exact memWfFrom_erase a wf
  · exact memWfFrom_insert (memWfFrom_erase a wf) (Nat.zero_le _) ha ‹_› key_memErase

theorem memGet_below {m : Memory} {lo x : Nat} (wf : memWfFrom lo m = true) (h : x < lo) :
    memGet m x = unlistedByte := by
  induction m generalizing lo with
  | nil => rfl
  | cons cell rest ih =>
    simp only [memWfFrom, Bool.and_eq_true, decide_eq_true_eq] at wf
    have hne : cell.1 ≠ x := by omega
    simp only [memGet, hne, if_false]
    exact ih wf.2 (by omega)

theorem memWfFrom_ext {m m' : Memory} {lo : Nat} (wf : memWfFrom lo m = true) (wf' : memWfFrom lo m' = true)
    (h : ∀ a, memGet m a = memGet m' a) : m = m' := by
  induction m generalizing lo m' with
  | nil =>
    cases m' with
    | nil => rfl
    | cons cell rest =>
      simp only [memWfFrom, Bool.and_eq_true, bne_iff_ne, ne_eq] at wf'
      exact absurd (by simpa [memGet] using (h cell.1).symm) wf'.1.2
  | cons cell rest ih =>
    rcases cell with ⟨k, v⟩
    cases m' with
    | nil =>
      simp only [memWfFrom, Bool.and_eq_true, bne_iff_ne, ne_eq] at wf
      exact absurd (by simpa [memGet] using h k) wf.1.2
    | cons cell' rest' =>
      rcases cell' with ⟨k', v'⟩
      simp only [memWfFrom, Bool.and_eq_true, bne_iff_ne, ne_eq, decide_eq_true_eq] at wf wf'
      have hkk : k = k' := by
        rcases Nat.lt_trichotomy k k' with hlt | heq | hgt
        · have := h k
          rw [memGet, if_pos rfl, memGet, if_neg (by omega), memGet_below wf'.2 (by omega)] at this
          exact absurd this wf.1.2
        · exact heq
        · have := h k'
          rw [memGet, if_neg (by omega), memGet, if_pos rfl, memGet_below wf.2 (by omega)] at this
          exact absurd this.symm wf'.1.2
      subst hkk
      have hv : v = v' := by simpa [memGet] using h k
      subst hv
      rw [ih wf.2 wf'.2 fun a => ?_]
      by_cases ha : k = a
      · subst ha; rw [memGet_below wf.2 (by omega), memGet_below wf'.2 (by omega)]
      · simpa [memGet, ha] using h a

/-- Memories in canonical form that read alike are equal. -/
theorem memory_ext {m m' : Memory} (wf : Memory.wf m = true) (wf' : Memory.wf m' = true)
    (h : ∀ a, memGet m a = memGet m' a) : m = m' :=
  memWfFrom_ext wf wf' h

/-! ## Words as addresses -/

theorem readByte_writeByte (m : Memory) (a x : Word) (v : Byte) :
    readByte (writeByte m a v) x = if x = a then v else readByte m x := by
  simp [readByte, writeByte, memGet_memSet, BitVec.toNat_inj]

theorem writeByte_wf {m : Memory} (a : Word) (v : Byte) (wf : Memory.wf m = true) :
    Memory.wf (writeByte m a v) = true :=
  memSet_wf v a.isLt wf

theorem writeBytes_wf {m : Memory} (a : Word) (bs : List Byte) (wf : Memory.wf m = true) :
    Memory.wf (writeBytes m a bs) = true := by
  induction bs generalizing m a with
  | nil => exact wf
  | cons b rest ih => exact ih _ (writeByte_wf a b wf)

theorem storeAll_wf {m : Memory} (ws : List (Word × List Byte)) (wf : Memory.wf m = true) :
    Memory.wf (storeAll m ws) = true := by
  induction ws generalizing m with
  | nil => exact wf
  | cons w rest ih => exact ih (writeBytes_wf w.1 w.2 wf)

theorem mem_bytesFrom {a x : Word} {n : Nat} : x ∈ bytesFrom a n ↔ ∃ k < n, x = a + BitVec.ofNat 32 k := by
  simp [bytesFrom, eq_comm]

theorem bytesFrom_succ (a : Word) (n : Nat) : bytesFrom a (n + 1) = a :: bytesFrom (a + 1#32) n := by
  simp only [bytesFrom, List.range_succ_eq_map, List.map_cons, List.map_map, List.cons.injEq]
  refine ⟨by simp, List.map_congr_left fun k _ => ?_⟩
  simp only [Function.comp, Nat.succ_eq_add_one]
  rw [BitVec.add_assoc]
  congr 1
  apply BitVec.eq_of_toNat_eq
  simp [Nat.add_comm]

/-- A write leaves every other byte alone (20_memory R204). -/
theorem readByte_writeBytes_outside (m : Memory) (a x : Word) (bs : List Byte) (h : x ∉ bytesFrom a bs.length) :
    readByte (writeBytes m a bs) x = readByte m x := by
  induction bs generalizing m a with
  | nil => rfl
  | cons b rest ih =>
    rw [List.length_cons, bytesFrom_succ] at h
    simp only [List.mem_cons, not_or] at h
    rw [writeBytes, ih _ _ h.2, readByte_writeByte, if_neg h.1]

/-- A byte written is the byte read back, for a write that does not wrap onto itself (20_memory R204). -/
theorem readByte_writeBytes (m : Memory) (a : Word) (bs : List Byte) (hlen : bs.length ≤ 2 ^ 32) (k : Nat)
    (hk : k < bs.length) : readByte (writeBytes m a bs) (a + BitVec.ofNat 32 k) = bs[k] := by
  induction bs generalizing m a k with
  | nil => simp at hk
  | cons b rest ih =>
    rw [writeBytes]
    cases k with
    | zero =>
      have hout : a + BitVec.ofNat 32 0 ∉ bytesFrom (a + 1#32) rest.length := by
        rw [mem_bytesFrom]
        rintro ⟨j, hj, h⟩
        simp only [List.length_cons] at hlen
        have := congrArg BitVec.toNat h
        simp only [BitVec.toNat_add, BitVec.toNat_ofNat] at this
        omega
      rw [readByte_writeBytes_outside _ _ _ _ hout, readByte_writeByte]
      simp
    | succ j =>
      have haddr : a + BitVec.ofNat 32 (j + 1) = a + 1#32 + BitVec.ofNat 32 j := by
        apply BitVec.eq_of_toNat_eq
        simp only [BitVec.toNat_add, BitVec.toNat_ofNat]
        omega
      rw [haddr]
      simpa using ih _ _ (by simp at hlen; omega) j (by simpa using hk)

/-- A list of writes leaves every byte outside them alone. -/
theorem readByte_storeAll_outside (m : Memory) (x : Word) (ws : List (Word × List Byte))
    (h : ∀ w ∈ ws, x ∉ bytesFrom w.1 w.2.length) : readByte (storeAll m ws) x = readByte m x := by
  induction ws generalizing m with
  | nil => rfl
  | cons w rest ih =>
    have h1 := h w (by simp)
    have h2 := ih (writeBytes m w.1 w.2) fun w' hw => h w' (by simp [hw])
    rw [show storeAll m (w :: rest) = storeAll (writeBytes m w.1 w.2) rest from rfl, h2,
      readByte_writeBytes_outside _ _ _ _ h1]

theorem reset_mem_wf : Memory.wf State.reset.mem = true := rfl

end Sys2Proof.Machine
end

