-- ==== Sys2Proof/Laws/Ops.lean ====
section
/-! SUPPORT. What each shared operation can do, said once: if it answers a next state, that state is the one named. -/

namespace Sys2Proof.Machine

/-! ## The program counter -/

theorem misaligned_eq_false {v : Word} : misaligned v = false ↔ v.extractLsb' 0 2 = 0#2 := by
  simp [misaligned]

/-- Four added to a word keeps its low two bits. -/
theorem low_bits_add_four (v : Word) : (v + 4#32).extractLsb' 0 2 = v.extractLsb' 0 2 := by
  apply BitVec.eq_of_toNat_eq
  simp only [BitVec.extractLsb'_toNat, BitVec.toNat_add, BitVec.toNat_ofNat, Nat.shiftRight_zero]
  omega

theorem writePc_aligned {v : Word} (s : State) (h : misaligned v = false) : writePc v s = .next { s with pc := v } := by
  simp [writePc, h]

theorem writePc_misaligned {v : Word} (s : State) (h : misaligned v = true) :
    writePc v s = .fault (.unpredictable 112) := by
  simp [writePc, h]

/-- `WritePC` goes to an aligned address or nowhere (10_state R112). -/
theorem writePc_eq_next {v : Word} {s t : State} :
    writePc v s = .next t ↔ misaligned v = false ∧ t = { s with pc := v } := by
  unfold writePc
  split
  · simp_all
  · simp_all only [Host.Outcome.next.injEq, Bool.not_eq_true, true_and]
    exact eq_comm

/-- The two ways a handler ends (40_dispatch R414). -/
theorem writeResult_eq_next {rd : RegIdx} {v : Word} {s t : State} :
    writeResult rd v s = .next t ↔
      (rd = 15 ∧ misaligned v = false ∧ t = { s with pc := v }) ∨ (rd ≠ 15 ∧ t = stepPc (writeReg rd v s)) := by
  unfold writeResult
  split
  · simp_all [writePc_eq_next]
  · simp_all only [Host.Outcome.next.injEq, false_and, ne_eq, not_false_eq_true, true_and, false_or]
    exact eq_comm

theorem writeResult_register {rd : RegIdx} (v : Word) (s : State) (h : rd ≠ 15) :
    writeResult rd v s = .next (stepPc (writeReg rd v s)) := by
  simp [writeResult, h]

@[simp] theorem writeResult_pc (v : Word) (s : State) : writeResult 15 v s = writePc v s := by
  simp [writeResult]

/-! ## Checks -/

@[simp] theorem checked_nil (k : Result) : checked [] k = k := rfl

theorem checked_cons (b : Bool) (f : Fault) (rest : List (Bool × Fault)) (k : Result) :
    checked ((b, f) :: rest) k = if b = true then .fault f else checked rest k := rfl

/-- Where no check holds, what follows them decides. -/
theorem checked_pass {cs : List (Bool × Fault)} (k : Result) (h : ∀ c ∈ cs, c.1 = false) : checked cs k = k := by
  induction cs with
  | nil => rfl
  | cons c rest ih =>
    have hc := h c (by simp)
    rcases c with ⟨b, f⟩
    simp only at hc
    subst hc
    simpa [checked] using ih fun c' hc' => h c' (by simp [hc'])

/-- A next state comes only where no check holds (60_exceptions R1002). -/
theorem checked_eq_next {cs : List (Bool × Fault)} {k : Result} {t : State} (h : checked cs k = .next t) :
    (∀ c ∈ cs, c.1 = false) ∧ k = .next t := by
  induction cs with
  | nil => exact ⟨by simp, h⟩
  | cons c rest ih =>
    rcases c with ⟨b, f⟩
    cases b with
    | true => simp [checked] at h
    | false =>
      obtain ⟨h1, h2⟩ := ih (by simpa [checked] using h)
      exact ⟨by simpa using h1, h2⟩

/-- The checks of what an instruction reads pass exactly when all of it holds values (10_state R121). -/
theorem unwrittenChecks_pass {ps : List UnwrittenPart} {s : State} :
    (∀ c ∈ unwrittenChecks ps s, c.1 = false) ↔ ∀ p ∈ ps, p ∉ s.unwritten := by
  simp [unwrittenChecks]

@[simp] theorem unwrittenChecks_nil (s : State) : unwrittenChecks [] s = [] := rfl

/-- Where a part that is read holds no value, the first such part is the fault (10_state R121). -/
theorem checked_unwritten {ps : List UnwrittenPart} {s : State} (k : Result) (h : ∃ p ∈ ps, p ∈ s.unwritten) :
    ∃ p ∈ ps, p ∈ s.unwritten ∧ checked (unwrittenChecks ps s) k = .fault (.unwrittenRead p) := by
  induction ps with
  | nil => simp at h
  | cons q rest ih =>
    by_cases hq : q ∈ s.unwritten
    · exact ⟨q, by simp, hq, by simp [unwrittenChecks, checked, hq]⟩
    · obtain ⟨p, hp, hu, he⟩ := ih (by simpa [hq] using h)
      exact ⟨p, by simp [hp], hu, by simpa [unwrittenChecks, checked, hq] using he⟩

/-- The checks of a rule one after another. -/
theorem checked_append (cs ds : List (Bool × Fault)) (k : Result) :
    checked (cs ++ ds) k = checked cs (checked ds k) := by
  induction cs with
  | nil => rfl
  | cons c rest ih => simp [checked, ih]

/-! ## The guard of every instruction -/

/-- The flags a condition reads all hold values: the guard decides. -/
theorem whenPassed_decided {c : Cond} {s : State} (touched : List RegIdx) (run : State → Result)
    (h : ∀ p ∈ condParts c, p ∉ s.unwritten) : whenPassed c touched s run = whenDecided c touched s run :=
  checked_pass _ (unwrittenChecks_pass.2 h)

/-- A condition that reads a flag without a value faults (40_dispatch R422). -/
theorem whenPassed_undecided {c : Cond} {s : State} (touched : List RegIdx) (run : State → Result)
    (h : ∃ p ∈ condParts c, p ∈ s.unwritten) :
    ∃ p ∈ condParts c, p ∈ s.unwritten ∧ whenPassed c touched s run = .fault (.unwrittenRead p) :=
  checked_unwritten _ h

theorem whenPassed_failed {c : Cond} {s : State} (touched : List RegIdx) (run : State → Result)
    (hd : ∀ p ∈ condParts c, p ∉ s.unwritten) (h : condPass c s.cpsr.flags = false) :
    whenPassed c touched s run = .next (stepPc (clearHazard s)) := by
  simp [whenPassed_decided _ _ hd, whenDecided, h]

theorem whenPassed_ready {c : Cond} {s : State} {touched : List RegIdx} (run : State → Result)
    (hd : ∀ p ∈ condParts c, p ∉ s.unwritten) (h : condPass c s.cpsr.flags = true)
    (hz : s.ldmUserHazard = true → ∀ r ∈ touched, hazardReg r = false) :
    whenPassed c touched s run = run (clearHazard s) := by
  rw [whenPassed_decided _ _ hd, whenDecided, if_pos h]
  split
  · rename_i r hb hf
    have := hz hb r (List.mem_of_find?_eq_some hf)
    simp [List.find?_some hf] at this
  · rfl

theorem whenPassed_hazard {c : Cond} {s : State} {touched : List RegIdx} (run : State → Result) {r : RegIdx}
    (hd : ∀ p ∈ condParts c, p ∉ s.unwritten) (h : condPass c s.cpsr.flags = true) (hz : s.ldmUserHazard = true)
    (hr : touched.find? hazardReg = some r) : whenPassed c touched s run = .fault (.ldmUserBankHazard r) := by
  simp [whenPassed_decided _ _ hd, whenDecided, h, hz, hr]

/-- The two ways an instruction gets a next state: its condition fails, or its effect gives one; in both the flags that the
condition reads hold values (40_dispatch R410, R422). -/
theorem whenPassed_eq_next {c : Cond} {s t : State} {touched : List RegIdx} {run : State → Result}
    (h : whenPassed c touched s run = .next t) :
    (∀ p ∈ condParts c, p ∉ s.unwritten) ∧
      ((condPass c s.cpsr.flags = false ∧ t = stepPc (clearHazard s)) ∨
        (condPass c s.cpsr.flags = true ∧ run (clearHazard s) = .next t)) := by
  obtain ⟨hd, h⟩ := checked_eq_next h
  refine ⟨unwrittenChecks_pass.1 hd, ?_⟩
  unfold whenDecided at h
  split at h
  · rename_i hc
    refine .inr ⟨hc, ?_⟩
    split at h
    · cases h
    · exact h
  · rename_i hc
    refine .inl ⟨by simpa using hc, ?_⟩
    cases h; rfl

/-! ## Stores -/

/-- A store writes memory and does the rest of its effect, or meets the prefetched words (70_reset R1120). -/
theorem store_eq_next {ws : List (Word × List Byte)} {s t : State} {rest : State → State} :
    store ws s rest = .next t ↔ storeHit s.pc ws = none ∧ t = rest { s with mem := storeAll s.mem ws } := by
  unfold store
  split
  · simp_all
  · simp_all only [Host.Outcome.next.injEq, true_and]
    exact eq_comm

theorem firstPrefetched_eq_none {pc a : Word} {n : Nat} :
    firstPrefetched pc a n = none ↔ ∀ x ∈ bytesFrom a n, prefetched pc x = false := by
  simp [firstPrefetched, bytesFrom]

theorem storeHit_eq_none {pc : Word} {ws : List (Word × List Byte)} :
    storeHit pc ws = none ↔ ∀ w ∈ ws, ∀ x ∈ bytesFrom w.1 w.2.length, prefetched pc x = false := by
  simp [storeHit, List.findSome?_eq_none_iff, firstPrefetched_eq_none]

/-! ## Exceptions -/

/-- A saved status is restored when its mode bits are a mode and, in ARM state, the target is aligned (60_exceptions
R1070, 42_data R541). -/
theorem resumeAt_eq_next {target : Word} {p : Spsr} {s t : State} :
    resumeAt target p s = .next t ↔
      ∃ c, restoredPsr p = some c ∧
        ((c.t = true ∧ t = give flagParts { s with cpsr := c, pc := target &&& ~~~1#32 }) ∨
          (c.t = false ∧ misaligned target = false ∧ t = give flagParts { s with cpsr := c, pc := target })) := by
  unfold resumeAt
  split
  · simp_all
  · rename_i c hc
    constructor
    · intro h
      refine ⟨c, hc, ?_⟩
      cases ht : c.t with
      | true => rw [if_pos ht] at h; cases h; exact .inl ⟨rfl, rfl⟩
      | false => rw [if_neg (by simp [ht])] at h; exact .inr ⟨rfl, writePc_eq_next.1 h⟩
    · rintro ⟨c', hc', h⟩
      cases hc.symm.trans hc'
      rcases h with ⟨ht, rfl⟩ | ⟨ht, hm, rfl⟩
      · rw [if_pos ht]
      · rw [if_neg (by simp [ht]), writePc_aligned _ hm]
        rfl

/-- A return needs an exception mode and a saved status that holds values (60_exceptions R1070). -/
theorem exceptionReturn_eq_next {target : Word} {s t : State} :
    exceptionReturn target s = .next t ↔
      ∃ p, spsrOf s.cpsr.mode s = some p ∧ (∀ q ∈ spsrParts s.cpsr.mode, q ∉ s.unwritten) ∧
        resumeAt target p s = .next t := by
  unfold exceptionReturn
  split
  · simp_all
  · rename_i p hp
    constructor
    · intro h
      obtain ⟨hw, h⟩ := checked_eq_next h
      exact ⟨p, hp, unwrittenChecks_pass.1 hw, h⟩
    · rintro ⟨p', hp', hw, h⟩
      cases hp.symm.trans hp'
      rwa [checked_pass _ (unwrittenChecks_pass.2 hw)]

/-- The registers an exception leaves alone: all but R14 of the mode entered (60_exceptions R1061). -/
theorem enterException_regs_kept {e : Exc} {p : PhysReg} (ret : Word) (s : State) (h : view e.mode 14 ≠ some p) :
    (enterException e ret s).regs.get p = s.regs.get p := by
  rw [enterException_regs]
  obtain ⟨q, hq⟩ := view_isSome e.mode (r := 14) (by decide)
  rw [writeRegIn_of_view _ _ hq]
  rw [give_regs]
  exact regs_get_set_other _ _ fun hpq => h (hpq ▸ hq)

/-- R14 of the mode entered holds the return address (60_exceptions R1061). -/
theorem enterException_link (e : Exc) (ret : Word) (s : State) :
    readRegIn e.mode (enterException e ret s) 14 = ret := by
  obtain ⟨q, hq⟩ := view_isSome e.mode (r := 14) (by decide)
  rw [readRegIn_of_view hq, enterException_regs, writeRegIn_of_view _ _ hq]
  simp

theorem takeSynchronous_enters (e : Exc) (s : State) (he : e.masksFiq = false) :
    ∃ t, takeSynchronous e s = .next t ∧ t.ldmUserHazard = s.ldmUserHazard ∧
      Enters e.vector e.mode (s.pc + 4#32) s.cpsr.f s t := by
  refine ⟨_, rfl, by simp, enterException_link .., ?_, by simp [he], by simp, fun p => enterException_regs_kept _ _, ?_,
    by simp, by simp, by simp⟩
  · simp [spsrOf_enterException, savedPsr]
  · intro m hm
    simp [spsrOf_enterException, hm]

/-! ## What is kept -/

theorem Kept.refl (regs : List PhysReg) (bytes : List Word) (s : State) : Kept regs bytes s s :=
  ⟨fun _ _ => rfl, fun _ _ => rfl, fun _ => rfl, rfl, rfl⟩

theorem Kept.trans {regs : List PhysReg} {bytes : List Word} {s t u : State} (h : Kept regs bytes s t)
    (h' : Kept regs bytes t u) : Kept regs bytes s u :=
  ⟨fun p hp => (h'.regs p hp).trans (h.regs p hp), fun a ha => (h'.mem a ha).trans (h.mem a ha),
    fun m => (h'.spsr m).trans (h.spsr m), h'.fault.trans h.fault, h'.completion.trans h.completion⟩

/-- A register write keeps all but the physical register behind the name. -/
theorem kept_writeReg (rd : RegIdx) (v : Word) (s : State) : Kept (physOf s [rd]) [] s (writeReg rd v s) :=
  ⟨fun _ hp => get_writeReg_kept v s hp, fun _ _ => by simp, fun _ => by simp, by simp, by simp⟩

end Sys2Proof.Machine
end

