-- ==== Sys2Proof/Laws/Meanings.lean ====
section
/-! SUPPORT. One lemma per shared meaning: what it answers once its guard and its checks let it run, and what the state it
ends in keeps. -/

namespace Sys2Proof.Machine

/-! ## What the two ends of a handler keep -/

/-- A register result with its flags and the step. -/
theorem writes_step {rd : RegIdx} (v : Word) (sf : Bool) (ps : List UnwrittenPart) (f : Flags) (s : State) (h : rd ≠ 15) :
    Writes rd v (if sf then f else s.cpsr.flags) s (stepPc (setFlagsIf sf ps f (writeReg rd v (clearHazard s)))) := by
  refine ⟨?_, by simp, by simp, ⟨fun p hp => ?_, fun _ _ => by simp, fun _ => by simp, by simp, by simp⟩,
    ⟨by simp, by simp, by simp, by simp, by simp⟩⟩
  · rw [readReg_stepPc _ h, readReg_setFlagsIf, readReg_writeReg_same _ _ h]
  · simp only [stepPc_regs, setFlagsIf_regs]
    exact get_writeReg_kept (s := clearHazard s) v hp

/-- Flags written and the step. -/
theorem tests_step (ps : List UnwrittenPart) (f : Flags) (s : State) :
    Tests f s (stepPc (setFlags ps f (clearHazard s))) :=
  ⟨by simp, by simp, ⟨fun _ _ => by simp, fun _ _ => by simp, fun _ => by simp, by simp, by simp⟩,
    ⟨by simp, by simp, by simp, by simp, by simp⟩⟩

/-- The pc written and nothing else. -/
theorem jumps_to (v : Word) (s : State) : Jumps v s.cpsr.flags s { clearHazard s with pc := v } :=
  ⟨rfl, rfl, ⟨fun _ _ => rfl, fun _ _ => rfl, fun m => by cases m <;> rfl, rfl, rfl⟩, ⟨rfl, rfl, rfl, rfl, rfl⟩⟩

/-! ## Operands do not see the hazard bit -/

@[simp] theorem shiftOperand_clearHazard (op2 : Operand2) (s : State) :
    shiftOperand op2 (clearHazard s) = shiftOperand op2 s := rfl
@[simp] theorem singleAddress_clearHazard (pre up wback : Bool) (rn : RegIdx) (off : Offset) (s : State) :
    singleAddress pre up wback rn off (clearHazard s) = singleAddress pre up wback rn off s := rfl
@[simp] theorem halfwordAddress_clearHazard (pre up wback : Bool) (rn : RegIdx) (off : HalfOffset) (s : State) :
    halfwordAddress pre up wback rn off (clearHazard s) = halfwordAddress pre up wback rn off s := rfl
@[simp] theorem blockAddress_clearHazard (pre up : Bool) (rn : RegIdx) (list : BitVec 16) (s : State) :
    blockAddress pre up rn list (clearHazard s) = blockAddress pre up rn list s := rfl

/-! ## What the operands read does not see the hazard bit -/

@[simp] theorem regParts_clearHazard (rs : List RegIdx) (s : State) : regParts rs (clearHazard s) = regParts rs s := rfl
@[simp] theorem operand2Parts_clearHazard (op2 : Operand2) (s : State) :
    operand2Parts op2 (clearHazard s) = operand2Parts op2 s := rfl
@[simp] theorem offsetParts_clearHazard (off : Offset) (s : State) :
    offsetParts off (clearHazard s) = offsetParts off s := rfl
@[simp] theorem unwrittenChecks_clearHazard (ps : List UnwrittenPart) (s : State) :
    unwrittenChecks ps (clearHazard s) = unwrittenChecks ps s := rfl

/-! ## Data processing -/

theorem noCheck_pass (s : State) : ∀ c ∈ noCheck s, c.1 = false := by simp [noCheck]

theorem completionCheck_pass {opcode : BitVec 4} {sf : Bool} {s : State} (h : s.armCompletion = true) :
    ∀ c ∈ completionCheck opcode sf s, c.1 = false := by
  simp [completionCheck, unimplementedCheck, h]

/-- The checks of a result opcode pass when it is no return form and R15 is in no register-specified shift. -/
theorem resultChecks_pass {sf : Bool} {rn rd : RegIdx} {op2 : Operand2} {s : State}
    (h : sf = false ∨ rd ≠ 15) (hsh : pcInRegShift [rd, rn] op2 = false) :
    ∀ c ∈ resultChecks sf rn rd op2 s, c.1 = false := by
  intro c hc
  simp only [resultChecks, List.mem_cons, List.not_mem_nil, or_false] at hc
  rcases hc with rfl | rfl | rfl
  · rcases h with h | h <;> simp [h]
  · rcases h with h | h <;> simp [h]
  · exact hsh

theorem finishResult_register {sf : Bool} {rd : RegIdx} (gives : List UnwrittenPart) (out : Word × Flags) (s : State)
    (h : rd ≠ 15) :
    finishResult sf rd gives out s = .next (stepPc (setFlagsIf sf gives out.2 (writeReg rd out.1 s))) := by
  simp [finishResult, h]

theorem finishResult_pc (gives : List UnwrittenPart) (out : Word × Flags) (s : State) :
    finishResult false 15 gives out s = writePc out.1 s := by
  simp [finishResult]

theorem finishResult_return (gives : List UnwrittenPart) (out : Word × Flags) (s : State) :
    finishResult true 15 gives out s = exceptionReturn out.1 s := by
  simp [finishResult]

/-- The next states of a result opcode (42_data R501). -/
theorem finishResult_eq_next {sf : Bool} {rd : RegIdx} {gives : List UnwrittenPart} {out : Word × Flags} {s t : State}
    (h : finishResult sf rd gives out s = .next t) :
    (rd ≠ 15 ∧ t = stepPc (setFlagsIf sf gives out.2 (writeReg rd out.1 s))) ∨
      (rd = 15 ∧ sf = false ∧ writePc out.1 s = .next t) ∨ (rd = 15 ∧ sf = true ∧ exceptionReturn out.1 s = .next t) := by
  by_cases hrd : rd = 15
  · subst hrd
    cases sf with
    | false => exact .inr (.inl ⟨rfl, rfl, by rwa [finishResult_pc] at h⟩)
    | true => exact .inr (.inr ⟨rfl, rfl, by rwa [finishResult_return] at h⟩)
  · rw [finishResult_register _ _ _ hrd] at h
    cases h
    exact .inl ⟨hrd, rfl⟩

/-! ## Multiplies -/

/-- The next states of MUL and MLA. -/
theorem finishMultiply_eq (sf : Bool) (rd : RegIdx) (v : Word) (s : State) :
    finishMultiply sf rd v s = writeResult rd v
      (if sf then afterDraw (setFlags multiplyParts (multiplyFlags v (drawn s) s.cpsr.flags) s) else s) := by
  cases sf <;> rfl

/-! ## Loads and stores -/

theorem singleChecks_pass {pre wback : Bool} {rn : RegIdx} {off : Offset} (ho : (15 : RegIdx) ∉ offsetRegs off)
    (hb : (!pre || wback) = true → rn ≠ 15) : ∀ c ∈ singleChecks pre wback rn off, c.1 = false := by
  cases pre <;> cases wback <;> simp_all [singleChecks]

theorem halfwordChecks_pass {pre wback : Bool} {rn : RegIdx} {off : HalfOffset}
    (ho : (15 : RegIdx) ∉ halfOffsetRegs off) (hb : (!pre || wback) = true → rn ≠ 15) :
    ∀ c ∈ halfwordChecks pre wback rn off, c.1 = false := by
  cases pre <;> cases wback <;> simp_all [halfwordChecks]

theorem finishLoad_register {rn rd : RegIdx} (ix : Indexed) (data : Word) (s : State) (h : rd ≠ 15) :
    finishLoad rn rd ix data s =
      .next (stepPc (writeReg rd data (if ix.wb && rd != rn then writeReg rn ix.moved s else s))) := by
  simp [finishLoad, writeResult, h]

theorem finishLoad_pc (rn : RegIdx) (ix : Indexed) (data : Word) (s : State) :
    finishLoad rn 15 ix data s = writePc data (if ix.wb && 15 != rn then writeReg rn ix.moved s else s) := by
  simp [finishLoad]

/-- A store clear of the prefetched words completes (70_reset R1120). -/
theorem store_clear {ws : List (Word × List Byte)} {s : State} (rest : State → State)
    (h : ∀ w ∈ ws, ClearOfPrefetch s.pc (bytesFrom w.1 w.2.length)) :
    store ws s rest = .next (rest { s with mem := storeAll s.mem ws }) := by
  rw [store_eq_next]
  refine ⟨storeHit_eq_none.2 fun w hw x hx => ?_, rfl⟩
  have := h w hw x hx
  simp only [prefetched, decide_eq_false_iff_not]
  omega

end Sys2Proof.Machine
end

