-- ==== Sys2Proof/Laws/Handlers.lean ====
section
/-! SUPPORT. The handler of each instruction: what it does once the guard lets it run (40_dispatch R430), and the one lemma
that says every instruction is its handler behind the guard. A proof about every next state starts from it. -/

namespace Sys2Proof.Machine

/-- A result opcode that reads Rn. -/
def dataHandler (kind : AluKind) (sf : Bool) (rn rd : RegIdx) (op2 : Operand2) (extra : State → List (Bool × Fault))
    (f : Word → Shifted → Flags → Word × Flags) (s : State) : Result :=
  checked (extra s ++ resultChecks sf rn rd op2 s ++
      unwrittenChecks (regParts [rn] s ++ operand2Parts op2 s ++ kind.reads) s)
    (finishResult sf rd (kind.gives (carryKept op2 s)) (f (readReg s rn) (shiftOperand op2 s) s.cpsr.flags) s)

/-- MOV and MVN. -/
def moveHandler (sf : Bool) (rn rd : RegIdx) (op2 : Operand2) (extra : State → List (Bool × Fault))
    (f : Shifted → Flags → Word × Flags) (s : State) : Result :=
  checked (extra s ++ resultChecks sf rn rd op2 s ++ unwrittenChecks (operand2Parts op2 s) s)
    (finishResult sf rd (AluKind.logical.gives (carryKept op2 s)) (f (shiftOperand op2 s) s.cpsr.flags) s)

/-- A test opcode. -/
def testHandler (kind : AluKind) (rn : RegIdx) (op2 : Operand2) (extra : State → List (Bool × Fault))
    (f : Word → Shifted → Flags → Word × Flags) (s : State) : Result :=
  checked (extra s ++ [(pcInRegShift [rn] op2, .unpredictable 460)] ++
      unwrittenChecks (regParts [rn] s ++ operand2Parts op2 s) s)
    (.next (stepPc (setFlags (kind.gives (carryKept op2 s)) (f (readReg s rn) (shiftOperand op2 s) s.cpsr.flags).2 s)))

/-- A long multiply. -/
def longHandler (u a sf : Bool) (rdHi rdLo rs rm : RegIdx) (product : Word → Word → BitVec 64) (s : State) : Result :=
  checked ([unimplementedCheck (.multiplyLong u a sf) s, (longMultiplyFault rdHi rdLo rs rm, .unpredictable 617)] ++
      unwrittenChecks (regParts (longSources a rdHi rdLo rs rm) s) s)
    (finishLongMultiply sf rdHi rdLo
      (product (readReg s rm) (readReg s rs) + if a then accumulator rdHi rdLo s else 0#64) s)

/-- A single load. -/
def loadHandler (read : Memory → Word → Word) (pre up wback : Bool) (rn rd : RegIdx) (off : Offset) (s : State) :
    Result :=
  checked (singleChecks pre wback rn off ++ unwrittenChecks (regParts [rn] s ++ offsetParts off s) s)
    (finishLoad rn rd (singleAddress pre up wback rn off s) (read s.mem (singleAddress pre up wback rn off s).addr) s)

/-- A single store of a word or a byte. -/
def storeHandler (align : Word → Word) (bytes : Word → List Byte) (pre up wback : Bool) (rn rd : RegIdx) (off : Offset)
    (s : State) : Result :=
  checked (singleChecks pre wback rn off ++ unwrittenChecks (regParts [rn, rd] s ++ offsetParts off s) s)
    (finishStore rn (singleAddress pre up wback rn off s) (align (singleAddress pre up wback rn off s).addr)
      (bytes (storeValue s rd)) s)

/-- A halfword or signed load. -/
def halfLoadHandler (read : Memory → Word → Word) (extra : State → List (Bool × Fault)) (pre up wback : Bool)
    (rn rd : RegIdx) (off : HalfOffset) (s : State) : Result :=
  checked (extra s ++ halfwordChecks pre wback rn off ++ unwrittenChecks (regParts (rn :: halfOffsetRegs off) s) s)
    (finishLoad rn rd (halfwordAddress pre up wback rn off s)
      (read s.mem (halfwordAddress pre up wback rn off s).addr) s)

/-- A swap. -/
def swapHandler (byte : Bool) (rn rd rm : RegIdx) (read : Memory → Word → Word) (align : Word → Word)
    (bytes : Word → List Byte) (s : State) : Result :=
  checked ([unimplementedCheck (.swap byte) s, (swapFault rn rd rm, .unpredictable 833)] ++
      unwrittenChecks (regParts [rn, rm] s) s)
    (store [(align (readReg s rn), bytes (readReg s rm))] s fun t =>
      stepPc (writeReg rd (read s.mem (readReg s rn)) t))

/-- The low byte of a word. -/
def lowByte (v : Word) : List Byte := [v.extractLsb' 0 8]

/-- The handler of an instruction. -/
def handler : Instr → State → Result
  | .and _ sf rn rd op2 => dataHandler .logical sf rn rd op2 noCheck andFn
  | .eor _ sf rn rd op2 => dataHandler .logical sf rn rd op2 noCheck eorFn
  | .sub _ sf rn rd op2 => dataHandler .arithmetic sf rn rd op2 noCheck subFn
  | .rsb _ sf rn rd op2 => dataHandler .arithmetic sf rn rd op2 (completionCheck 3#4 sf) rsbFn
  | .add _ sf rn rd op2 => dataHandler .arithmetic sf rn rd op2 noCheck addFn
  | .adc _ sf rn rd op2 => dataHandler .carryIn sf rn rd op2 (completionCheck 5#4 sf) adcFn
  | .sbc _ sf rn rd op2 => dataHandler .carryIn sf rn rd op2 (completionCheck 6#4 sf) sbcFn
  | .rsc _ sf rn rd op2 => dataHandler .carryIn sf rn rd op2 (completionCheck 7#4 sf) rscFn
  | .tst _ rn _ op2 => testHandler .logical rn op2 noCheck tstFn
  | .teq _ rn _ op2 => testHandler .logical rn op2 (completionCheck 9#4 true) teqFn
  | .cmp _ rn _ op2 => testHandler .arithmetic rn op2 noCheck cmpFn
  | .cmn _ rn _ op2 => testHandler .arithmetic rn op2 (completionCheck 11#4 true) cmnFn
  | .orr _ sf rn rd op2 => dataHandler .logical sf rn rd op2 noCheck orrFn
  | .mov _ sf rn rd op2 => moveHandler sf rn rd op2 noCheck movFn
  | .bic _ sf rn rd op2 => dataHandler .logical sf rn rd op2 (completionCheck 14#4 sf) bicFn
  | .mvn _ sf rn rd op2 => moveHandler sf rn rd op2 (completionCheck 15#4 sf) mvnFn
  | .mul _ sf rd _ rs rm => fun s =>
    checked ([(rm == 15 || rs == 15, .unpredictable 604)] ++ unwrittenChecks (regParts [rm, rs] s) s)
      (finishMultiply sf rd (readReg s rm * readReg s rs) s)
  | .mla _ sf rd rn rs rm => fun s =>
    checked ([(rm == 15 || rs == 15 || rn == 15, .unpredictable 604)] ++ unwrittenChecks (regParts [rm, rs, rn] s) s)
      (finishMultiply sf rd (readReg s rm * readReg s rs + readReg s rn) s)
  | .umull _ sf rdHi rdLo rs rm => longHandler false false sf rdHi rdLo rs rm unsignedProduct
  | .umlal _ sf rdHi rdLo rs rm => longHandler false true sf rdHi rdLo rs rm unsignedProduct
  | .smull _ sf rdHi rdLo rs rm => longHandler true false sf rdHi rdLo rs rm signedProduct
  | .smlal _ sf rdHi rdLo rs rm => longHandler true true sf rdHi rdLo rs rm signedProduct
  | .swp _ rn rd rm => swapHandler false rn rd rm readRotateWord alignWord wordBytes
  | .swpb _ rn rd rm => swapHandler true rn rd rm readZeroByte id lowByte
  | .b _ off => fun s => writePc (branchTarget off s) s
  | .bl _ off => fun s => writePc (branchTarget off s) (writeReg 14 (s.pc + 4#32) s)
  | .bx _ rm => fun s => checked (unwrittenChecks (regParts [rm] s) s) (branchExchange (readReg s rm) s)
  | .ldr _ pre up wback rn rd off => loadHandler readRotateWord pre up wback rn rd off
  | .ldrb _ pre up wback rn rd off => loadHandler readZeroByte pre up wback rn rd off
  | .ldrt _ up rn rd off => loadHandler readRotateWord false up true rn rd off
  | .ldrbt _ up rn rd off => loadHandler readZeroByte false up true rn rd off
  | .str _ pre up wback rn rd off => storeHandler alignWord wordBytes pre up wback rn rd off
  | .strb _ pre up wback rn rd off => storeHandler id lowByte pre up wback rn rd off
  | .strt _ up rn rd off => storeHandler alignWord wordBytes false up true rn rd off
  | .strbt _ up rn rd off => storeHandler id lowByte false up true rn rd off
  | .ldrh _ pre up wback rn rd off => halfLoadHandler readRotateHalf (fun _ => []) pre up wback rn rd off
  | .ldrsb _ pre up wback rn rd off => halfLoadHandler readSignedByte (fun _ => []) pre up wback rn rd off
  | .ldrsh _ pre up wback rn rd off =>
    halfLoadHandler readSignedHalf (fun s => [unimplementedCheck (.halfword true true) s]) pre up wback rn rd off
  | .strh _ pre up wback rn rd off => fun s =>
    checked (halfwordChecks pre wback rn off ++ unwrittenChecks (regParts (rn :: rd :: halfOffsetRegs off) s) s)
      (finishStore rn (halfwordAddress pre up wback rn off s) (alignHalf (halfwordAddress pre up wback rn off s).addr)
        (halfBytes ((storeValue s rd).extractLsb' 0 16)) s)
  | .ldmia _ wback rn list => fun s =>
    checked ([baseCheck rn] ++ unwrittenChecks (regParts [rn] s) s) (finishLdm false true wback rn list s)
  | .ldmib _ wback rn list => fun s =>
    checked ([baseCheck rn] ++ unwrittenChecks (regParts [rn] s) s) (finishLdm true true wback rn list s)
  | .ldmda _ wback rn list => fun s =>
    checked ([baseCheck rn] ++ unwrittenChecks (regParts [rn] s) s) (finishLdm false false wback rn list s)
  | .ldmdb _ wback rn list => fun s =>
    checked ([baseCheck rn] ++ unwrittenChecks (regParts [rn] s) s) (finishLdm true false wback rn list s)
  | .stmia _ wback rn list => fun s =>
    checked ([baseCheck rn] ++ unwrittenChecks (stmParts false rn list s) s) (finishStm false false true wback rn list s)
  | .stmib _ wback rn list => fun s =>
    checked ([baseCheck rn] ++ unwrittenChecks (stmParts false rn list s) s) (finishStm false true true wback rn list s)
  | .stmda _ wback rn list => fun s =>
    checked ([baseCheck rn] ++ unwrittenChecks (stmParts false rn list s) s) (finishStm false false false wback rn list s)
  | .stmdb _ wback rn list => fun s =>
    checked ([baseCheck rn] ++ unwrittenChecks (stmParts false rn list s) s) (finishStm false true false wback rn list s)
  | .stmUser _ pre up wback rn list => fun s =>
    checked (userBankChecks wback rn s ++ unwrittenChecks (stmParts true rn list s) s)
      (finishStm true pre up wback rn list s)
  | .ldmRet _ pre up wback rn list => fun s =>
    checked (ldmRetChecks rn s ++ unwrittenChecks (regParts [rn] s) s) (finishLdmRet pre up wback rn list s)
  | .ldmUser _ pre up wback rn list => fun s =>
    if list = 0#16 then
      checked (ldmRetChecks rn s ++ unwrittenChecks (regParts [rn] s) s) (finishLdmRet pre up wback rn list s)
    else checked (userBankChecks wback rn s ++ unwrittenChecks (regParts [rn] s) s) (finishLdmUser pre up rn list s)
  | .mrs _ psr rd => fun s =>
    checked ([spsrCheck psr s] ++ unwrittenChecks (mrsParts psr s) s) (writeResult rd (mrsValue psr s) (afterDraw s))
  | .msrReg _ psr fields _ rm => fun s =>
    checked ([spsrCheck psr s, (rm == 15, .unpredictable 662)] ++ unwrittenChecks (regParts [rm] s) s ++
        msrValueChecks psr fields (readReg s rm) s)
      (.next (msrEffect psr fields (readReg s rm) s))
  | .msrImm _ psr fields _ rot imm8 => fun s =>
    checked ([spsrCheck psr s] ++ msrValueChecks psr fields (rotatedImm rot imm8) s)
      (.next (msrEffect psr fields (rotatedImm rot imm8) s))
  | .swi .. => unimplementedOrTrap .softwareInterrupt .swi
  | .cdp .. => unimplementedOrTrap .coprocDataOperation .undefined
  | .ldc .. => unimplementedOrTrap (.coprocDataTransfer true) .undefined
  | .stc .. => unimplementedOrTrap (.coprocDataTransfer false) .undefined
  | .mcr .. => unimplementedOrTrap (.coprocRegisterTransfer false) .undefined
  | .mrc .. => unimplementedOrTrap (.coprocRegisterTransfer true) .undefined
  | .fallback .. => unimplementedOrTrap .fallback .undefined
  | .undefGap .. => undefinedEncoding .undefinedGap
  | .undefHalfword .. => undefinedEncoding .halfword
  | .undefSignedStore .. => undefinedEncoding .halfword
  | .undefTest .. => undefinedEncoding .dataProcessing

/-- Every instruction is its handler behind the guard of its condition and of the registers R1121 names. -/
theorem exec_eq_handler (i : Instr) (s : State) : exec i s = whenPassed i.cond (touched i) s (handler i) := by
  cases i
  case ldmUser c pre up wback rn list =>
    by_cases hl : list = 0#16
    · rw [exec, execLdmUser, if_pos hl]
      simp only [blockReturn, handler, if_pos hl]
      rfl
    · rw [exec, execLdmUser, if_neg hl]
      simp only [handler, if_neg hl]
      rfl
  all_goals rfl

/-- A ready instruction does what its handler does. -/
theorem exec_ready {i : Instr} {s : State} (h : Ready i s) : exec i s = handler i (clearHazard s) := by
  rw [exec_eq_handler, whenPassed_ready _ h.decided h.passes h.noHazard]

/-- The two ways an instruction gets a next state; the flags its condition reads hold values. -/
theorem exec_eq_next {i : Instr} {s t : State} (h : exec i s = .next t) :
    Decided i s ∧ ((condPass i.cond s.cpsr.flags = false ∧ t = stepPc (clearHazard s)) ∨
      (condPass i.cond s.cpsr.flags = true ∧ handler i (clearHazard s) = .next t)) :=
  whenPassed_eq_next (by rwa [exec_eq_handler] at h)

/-! ## Handlers whose checks pass -/

/-- A result opcode that may run ends as `finishResult` does. -/
theorem dataHandler_runs {kind : AluKind} {sf : Bool} {rn rd : RegIdx} {op2 : Operand2} {s : State} {extra : State → List (Bool × Fault)}
    (f : Word → Shifted → Flags → Word × Flags) (he : ∀ c ∈ extra s, c.1 = false) (hsf : sf = false ∨ rd ≠ 15)
    (hsh : pcInRegShift [rd, rn] op2 = false)
    (hw : ∀ p ∈ regParts [rn] s ++ operand2Parts op2 s ++ kind.reads, p ∉ s.unwritten) :
    dataHandler kind sf rn rd op2 extra f s =
      finishResult sf rd (kind.gives (carryKept op2 s)) (f (readReg s rn) (shiftOperand op2 s) s.cpsr.flags) s := by
  rw [dataHandler, checked_append, checked_pass _ fun c hc => (List.mem_append.1 hc).elim (he c) (resultChecks_pass hsf hsh c),
    checked_pass _ (unwrittenChecks_pass.2 hw)]

/-- MOV or MVN that may run ends as `finishResult` does. -/
theorem moveHandler_runs {sf : Bool} {rn rd : RegIdx} {op2 : Operand2} {s : State} {extra : State → List (Bool × Fault)}
    (f : Shifted → Flags → Word × Flags) (he : ∀ c ∈ extra s, c.1 = false) (hsf : sf = false ∨ rd ≠ 15)
    (hsh : pcInRegShift [rd, rn] op2 = false) (hw : ∀ p ∈ operand2Parts op2 s, p ∉ s.unwritten) :
    moveHandler sf rn rd op2 extra f s =
      finishResult sf rd (AluKind.logical.gives (carryKept op2 s)) (f (shiftOperand op2 s) s.cpsr.flags) s := by
  rw [moveHandler, checked_append, checked_pass _ fun c hc => (List.mem_append.1 hc).elim (he c) (resultChecks_pass hsf hsh c),
    checked_pass _ (unwrittenChecks_pass.2 hw)]

/-- A test opcode that may run writes its flags and steps. -/
theorem testHandler_runs {kind : AluKind} {rn : RegIdx} {op2 : Operand2} {s : State} {extra : State → List (Bool × Fault)}
    (f : Word → Shifted → Flags → Word × Flags) (he : ∀ c ∈ extra s, c.1 = false)
    (hsh : pcInRegShift [rn] op2 = false) (hw : ∀ p ∈ regParts [rn] s ++ operand2Parts op2 s, p ∉ s.unwritten) :
    testHandler kind rn op2 extra f s =
      .next (stepPc (setFlags (kind.gives (carryKept op2 s)) (f (readReg s rn) (shiftOperand op2 s) s.cpsr.flags).2 s)) := by
  rw [testHandler, checked_append, checked_pass _ fun c hc => (List.mem_append.1 hc).elim (he c) fun hc => by
    rw [List.mem_singleton.1 hc]; exact hsh, checked_pass _ (unwrittenChecks_pass.2 hw)]

/-- A long multiply that may run writes both halves (43_multiply R617). -/
theorem longHandler_runs {u a sf : Bool} {rdHi rdLo rs rm : RegIdx} {s : State} (product : Word → Word → BitVec 64)
    (hc : s.armCompletion = true) (hl : longMultiplyFault rdHi rdLo rs rm = false)
    (hw : ∀ p ∈ regParts (longSources a rdHi rdLo rs rm) s, p ∉ s.unwritten) :
    longHandler u a sf rdHi rdLo rs rm product s =
      finishLongMultiply sf rdHi rdLo
        (product (readReg s rm) (readReg s rs) + if a then accumulator rdHi rdLo s else 0#64) s := by
  rw [longHandler, checked_append, checked_pass _ (by simp [unimplementedCheck, hc, hl]),
    checked_pass _ (unwrittenChecks_pass.2 hw)]

/-- A single load that may run (46_single R753). -/
theorem loadHandler_runs {pre up wback : Bool} {rn rd : RegIdx} {off : Offset} {s : State}
    (read : Memory → Word → Word) (ho : (15 : RegIdx) ∉ offsetRegs off) (hb : (!pre || wback) = true → rn ≠ 15)
    (hw : ∀ p ∈ regParts [rn] s ++ offsetParts off s, p ∉ s.unwritten) :
    loadHandler read pre up wback rn rd off s =
      finishLoad rn rd (singleAddress pre up wback rn off s) (read s.mem (singleAddress pre up wback rn off s).addr) s := by
  rw [loadHandler, checked_append, checked_pass _ (singleChecks_pass ho hb), checked_pass _ (unwrittenChecks_pass.2 hw)]

/-- A single store that may run (46_single R753). -/
theorem storeHandler_runs {pre up wback : Bool} {rn rd : RegIdx} {off : Offset} {s : State} (align : Word → Word)
    (bytes : Word → List Byte) (ho : (15 : RegIdx) ∉ offsetRegs off) (hb : (!pre || wback) = true → rn ≠ 15)
    (hw : ∀ p ∈ regParts [rn, rd] s ++ offsetParts off s, p ∉ s.unwritten) :
    storeHandler align bytes pre up wback rn rd off s =
      finishStore rn (singleAddress pre up wback rn off s) (align (singleAddress pre up wback rn off s).addr)
        (bytes (storeValue s rd)) s := by
  rw [storeHandler, checked_append, checked_pass _ (singleChecks_pass ho hb), checked_pass _ (unwrittenChecks_pass.2 hw)]

/-- A halfword or signed load that may run (47_halfword R806). -/
theorem halfLoadHandler_runs {pre up wback : Bool} {rn rd : RegIdx} {off : HalfOffset} {s : State}
    {extra : State → List (Bool × Fault)} (read : Memory → Word → Word) (he : ∀ c ∈ extra s, c.1 = false)
    (ho : (15 : RegIdx) ∉ halfOffsetRegs off) (hb : (!pre || wback) = true → rn ≠ 15)
    (hw : ∀ p ∈ regParts (rn :: halfOffsetRegs off) s, p ∉ s.unwritten) :
    halfLoadHandler read extra pre up wback rn rd off s =
      finishLoad rn rd (halfwordAddress pre up wback rn off s)
        (read s.mem (halfwordAddress pre up wback rn off s).addr) s := by
  rw [halfLoadHandler, checked_append,
    checked_pass _ fun c hc => (List.mem_append.1 hc).elim (he c) (halfwordChecks_pass ho hb c),
    checked_pass _ (unwrittenChecks_pass.2 hw)]

/-! ## What an instruction reads and gives a value, beside the tables of Safety.lean -/

/-- The shifter keeps C exactly where the tables say so (41_shifter R451 to R453). -/
theorem carryKept_eq_carryUnchanged (op2 : Operand2) (s : State) : carryKept op2 s = carryUnchanged op2 s := by
  cases op2 with
  | imm rot imm8 => exact Bool.beq_eq_decide_eq rot 0#4
  | shiftImm rm ty amount => cases ty <;> simp [carryKept, carryUnchanged, Bool.beq_eq_decide_eq]
  | shiftReg rm ty rs => simp [carryKept, carryUnchanged, regAmount, Bool.beq_eq_decide_eq]

/-- Operand 2 reads what the tables say (42_data R510 item 5). -/
theorem operand2Parts_eq_operand2Reads (op2 : Operand2) (s : State) : operand2Parts op2 s = operand2Reads op2 s := by
  cases op2 with
  | imm rot imm8 => rfl
  | shiftImm rm ty amount => cases ty <;> simp [operand2Parts, operand2Reads, readsCarry]
  | shiftReg rm ty rs => rfl

/-- A single-transfer offset reads what the tables say (46_single R753 item 3). -/
theorem offsetParts_eq_offsetReads (off : Offset) (s : State) : offsetParts off s = offsetReads off s := by
  cases off with
  | imm imm12 => rfl
  | reg rm ty amount => exact operand2Parts_eq_operand2Reads (.shiftImm rm ty amount) s

/-- The flags a logical opcode gives a value (42_data R505). -/
theorem logical_gives_eq_logicalWrite (op2 : Operand2) (s : State) :
    AluKind.logical.gives (carryKept op2 s) = logicalWrite op2 s := by
  rw [carryKept_eq_carryUnchanged]; rfl

end Sys2Proof.Machine
end

