-- ==== Sys2Proof/Laws/PerInstr.lean ====
section
/-! SUPPORT. The family EncodesCondition: the word of every instruction carries its condition in bits 31:28, where the
decoder reads it back (30_encoding R301, 40_dispatch R420). One lemma per constructor. -/

namespace Sys2Proof.Laws.EncodesCondition

/-- The condition read from the word of an instruction is the instruction's. -/
def Statement (i : Instr) : Prop := condOf (field (encode i) 28 4) = some i.cond

/-- Enough that nothing else stands in bits 31:28. -/
theorem of_body {i : Instr} (h : field i.body 28 4 = 0#4) : Statement i := by
  simp [Statement, encode, h, field_put_same]

theorem field_putBit {p : Nat} (b : Bool) (h : p < 28) : field (putBit p b) 28 4 = 0#4 :=
  field_put_above _ (by omega)

theorem field_putReg {p : Nat} (r : RegIdx) (h : p + 4 ≤ 28) : field (putReg p r) 28 4 = 0#4 :=
  field_put_above _ h

theorem operand2 (op2 : Operand2) : field op2.bits 28 4 = 0#4 := by
  cases op2 <;> simp (disch := omega) [Operand2.bits, field_putBit, field_putReg, field_put_above]

theorem offset (off : Offset) : field off.bits 28 4 = 0#4 := by
  cases off <;> simp (disch := omega) [Offset.bits, field_putBit, field_putReg, field_put_above]

theorem halfOffset (off : HalfOffset) : field off.bits 28 4 = 0#4 := by
  cases off <;> simp (disch := omega) [HalfOffset.bits, field_putBit, field_putReg, field_put_above]

theorem indexed (pre up wback load : Bool) : field (indexBits pre up wback load) 28 4 = 0#4 := by
  simp (disch := omega) [indexBits, field_putBit]

theorem dataProcessing (opcode : BitVec 4) (s : Bool) (rn rd : RegIdx) (op2 : Operand2) :
    field (dataProcessingBits opcode s rn rd op2) 28 4 = 0#4 := by
  simp (disch := omega) [dataProcessingBits, field_putBit, field_putReg, field_put_above, operand2]

theorem multiplies (a s : Bool) (rd rn rs rm : RegIdx) : field (multiplyBits a s rd rn rs rm) 28 4 = 0#4 := by
  simp (disch := omega) [multiplyBits, field_putBit, field_putReg, field_put_above]

theorem longMultiplies (u a s : Bool) (rdHi rdLo rs rm : RegIdx) :
    field (multiplyLongBits u a s rdHi rdLo rs rm) 28 4 = 0#4 := by
  simp (disch := omega) [multiplyLongBits, field_putBit, field_put_above, multiplies]

theorem singles (pre up byte wback load : Bool) (rn rd : RegIdx) (off : Offset) :
    field (singleBits pre up byte wback load rn rd off) 28 4 = 0#4 := by
  simp (disch := omega) [singleBits, field_putBit, field_putReg, field_put_above, indexed, offset]

theorem halfwords (pre up wback load s h : Bool) (rn rd : RegIdx) (off : HalfOffset) :
    field (halfwordBits pre up wback load s h rn rd off) 28 4 = 0#4 := by
  simp (disch := omega) [halfwordBits, field_putBit, field_putReg, indexed, halfOffset]

theorem undefHalfwords (pre up imm wback load s h : Bool) (rn rd : RegIdx) (hi lo : BitVec 4) :
    field (undefHalfwordBits pre up imm wback load s h rn rd hi lo) 28 4 = 0#4 := by
  simp (disch := omega) [undefHalfwordBits, field_putBit, field_putReg, field_put_above, indexed]

theorem blocks (pre up s wback load : Bool) (rn : RegIdx) (list : BitVec 16) :
    field (blockBits pre up s wback load rn list) 28 4 = 0#4 := by
  simp (disch := omega) [blockBits, field_putBit, field_putReg, field_put_above, indexed]

theorem swaps (byte : Bool) (rn rd rm : RegIdx) : field (swapBits byte rn rd rm) 28 4 = 0#4 := by
  simp (disch := omega) [swapBits, field_putBit, field_putReg, field_put_above]

theorem branches (link : Bool) (off : BitVec 24) : field (branchBits link off) 28 4 = 0#4 := by
  simp (disch := omega) [branchBits, field_putBit, field_put_above]

theorem coprocTransfers (pre up n wback load : Bool) (rn : RegIdx) (crd cp : BitVec 4) (off : BitVec 8) :
    field (coprocTransferBits pre up n wback load rn crd cp off) 28 4 = 0#4 := by
  simp (disch := omega) [coprocTransferBits, field_putBit, field_putReg, field_put_above, indexed]

theorem coprocOperations (op1 crn crd cp : BitVec 4) (op2 : BitVec 3) (crm : BitVec 4) :
    field (coprocOperationBits op1 crn crd cp op2 crm) 28 4 = 0#4 := by
  simp (disch := omega) [coprocOperationBits, field_put_above]

theorem coprocRegisters (load : Bool) (op1 : BitVec 3) (crn : BitVec 4) (rd : RegIdx) (cp : BitVec 4) (op2 : BitVec 3)
    (crm : BitVec 4) : field (coprocRegisterBits load op1 crn rd cp op2 crm) 28 4 = 0#4 := by
  simp (disch := omega) [coprocRegisterBits, field_putBit, field_putReg, field_put_above]

theorem msrs (psr : PsrSel) (fields : MsrFields) (ignored : BitVec 2) :
    field (msrBits psr fields ignored) 28 4 = 0#4 := by
  simp (disch := omega) [msrBits, field_putBit, field_put_above]

theorem mul (c : Cond) (sf : Bool) (rd rn rs rm : RegIdx) :
    Statement (.mul c sf rd rn rs rm) :=
  of_body (multiplies ..)

theorem mla (c : Cond) (sf : Bool) (rd rn rs rm : RegIdx) :
    Statement (.mla c sf rd rn rs rm) :=
  of_body (multiplies ..)

theorem umull (c : Cond) (sf : Bool) (rdHi rdLo rs rm : RegIdx) :
    Statement (.umull c sf rdHi rdLo rs rm) :=
  of_body (longMultiplies ..)

theorem umlal (c : Cond) (sf : Bool) (rdHi rdLo rs rm : RegIdx) :
    Statement (.umlal c sf rdHi rdLo rs rm) :=
  of_body (longMultiplies ..)

theorem smull (c : Cond) (sf : Bool) (rdHi rdLo rs rm : RegIdx) :
    Statement (.smull c sf rdHi rdLo rs rm) :=
  of_body (longMultiplies ..)

theorem smlal (c : Cond) (sf : Bool) (rdHi rdLo rs rm : RegIdx) :
    Statement (.smlal c sf rdHi rdLo rs rm) :=
  of_body (longMultiplies ..)

theorem swp (c : Cond) (rn rd rm : RegIdx) :
    Statement (.swp c rn rd rm) :=
  of_body (swaps ..)

theorem swpb (c : Cond) (rn rd rm : RegIdx) :
    Statement (.swpb c rn rd rm) :=
  of_body (swaps ..)

theorem bx (c : Cond) (rm : RegIdx) :
    Statement (.bx c rm) :=
  of_body (by simp (disch := omega) [Instr.body, field_putReg, field_put_above])

theorem ldrh (c : Cond) (pre up wback : Bool) (rn rd : RegIdx) (off : HalfOffset) :
    Statement (.ldrh c pre up wback rn rd off) :=
  of_body (halfwords ..)

theorem strh (c : Cond) (pre up wback : Bool) (rn rd : RegIdx) (off : HalfOffset) :
    Statement (.strh c pre up wback rn rd off) :=
  of_body (halfwords ..)

theorem ldrsb (c : Cond) (pre up wback : Bool) (rn rd : RegIdx) (off : HalfOffset) :
    Statement (.ldrsb c pre up wback rn rd off) :=
  of_body (halfwords ..)

theorem ldrsh (c : Cond) (pre up wback : Bool) (rn rd : RegIdx) (off : HalfOffset) :
    Statement (.ldrsh c pre up wback rn rd off) :=
  of_body (halfwords ..)

theorem undefHalfword (c : Cond) (pre up imm wback load : Bool) (rn rd : RegIdx) (hi lo : BitVec 4) :
    Statement (.undefHalfword c pre up imm wback load rn rd hi lo) :=
  of_body (undefHalfwords ..)

theorem undefSignedStore (c : Cond) (pre up imm wback h : Bool) (rn rd : RegIdx) (hi lo : BitVec 4) :
    Statement (.undefSignedStore c pre up imm wback h rn rd hi lo) :=
  of_body (undefHalfwords ..)

theorem undefGap (c : Cond) (hi : BitVec 20) (lo : BitVec 4) :
    Statement (.undefGap c hi lo) :=
  of_body (by simp (disch := omega) [Instr.body, field_putBit, field_put_above])

theorem ldrt (c : Cond) (up : Bool) (rn rd : RegIdx) (off : Offset) :
    Statement (.ldrt c up rn rd off) :=
  of_body (singles ..)

theorem strt (c : Cond) (up : Bool) (rn rd : RegIdx) (off : Offset) :
    Statement (.strt c up rn rd off) :=
  of_body (singles ..)

theorem ldrbt (c : Cond) (up : Bool) (rn rd : RegIdx) (off : Offset) :
    Statement (.ldrbt c up rn rd off) :=
  of_body (singles ..)

theorem strbt (c : Cond) (up : Bool) (rn rd : RegIdx) (off : Offset) :
    Statement (.strbt c up rn rd off) :=
  of_body (singles ..)

theorem ldr (c : Cond) (pre up wback : Bool) (rn rd : RegIdx) (off : Offset) :
    Statement (.ldr c pre up wback rn rd off) :=
  of_body (singles ..)

theorem str (c : Cond) (pre up wback : Bool) (rn rd : RegIdx) (off : Offset) :
    Statement (.str c pre up wback rn rd off) :=
  of_body (singles ..)

theorem ldrb (c : Cond) (pre up wback : Bool) (rn rd : RegIdx) (off : Offset) :
    Statement (.ldrb c pre up wback rn rd off) :=
  of_body (singles ..)

theorem strb (c : Cond) (pre up wback : Bool) (rn rd : RegIdx) (off : Offset) :
    Statement (.strb c pre up wback rn rd off) :=
  of_body (singles ..)

theorem ldmRet (c : Cond) (pre up wback : Bool) (rn : RegIdx) (list : BitVec 16) :
    Statement (.ldmRet c pre up wback rn list) :=
  of_body (blocks ..)

theorem ldmUser (c : Cond) (pre up wback : Bool) (rn : RegIdx) (list : BitVec 16) :
    Statement (.ldmUser c pre up wback rn list) :=
  of_body (blocks ..)

theorem stmUser (c : Cond) (pre up wback : Bool) (rn : RegIdx) (list : BitVec 16) :
    Statement (.stmUser c pre up wback rn list) :=
  of_body (blocks ..)

theorem ldmia (c : Cond) (wback : Bool) (rn : RegIdx) (list : BitVec 16) :
    Statement (.ldmia c wback rn list) :=
  of_body (blocks ..)

theorem ldmib (c : Cond) (wback : Bool) (rn : RegIdx) (list : BitVec 16) :
    Statement (.ldmib c wback rn list) :=
  of_body (blocks ..)

theorem ldmda (c : Cond) (wback : Bool) (rn : RegIdx) (list : BitVec 16) :
    Statement (.ldmda c wback rn list) :=
  of_body (blocks ..)

theorem ldmdb (c : Cond) (wback : Bool) (rn : RegIdx) (list : BitVec 16) :
    Statement (.ldmdb c wback rn list) :=
  of_body (blocks ..)

theorem stmia (c : Cond) (wback : Bool) (rn : RegIdx) (list : BitVec 16) :
    Statement (.stmia c wback rn list) :=
  of_body (blocks ..)

theorem stmib (c : Cond) (wback : Bool) (rn : RegIdx) (list : BitVec 16) :
    Statement (.stmib c wback rn list) :=
  of_body (blocks ..)

theorem stmda (c : Cond) (wback : Bool) (rn : RegIdx) (list : BitVec 16) :
    Statement (.stmda c wback rn list) :=
  of_body (blocks ..)

theorem stmdb (c : Cond) (wback : Bool) (rn : RegIdx) (list : BitVec 16) :
    Statement (.stmdb c wback rn list) :=
  of_body (blocks ..)

theorem b (c : Cond) (off : BitVec 24) :
    Statement (.b c off) :=
  of_body (branches ..)

theorem bl (c : Cond) (off : BitVec 24) :
    Statement (.bl c off) :=
  of_body (branches ..)

theorem ldc (c : Cond) (pre up n wback : Bool) (rn : RegIdx) (crd cp : BitVec 4) (off : BitVec 8) :
    Statement (.ldc c pre up n wback rn crd cp off) :=
  of_body (coprocTransfers ..)

theorem stc (c : Cond) (pre up n wback : Bool) (rn : RegIdx) (crd cp : BitVec 4) (off : BitVec 8) :
    Statement (.stc c pre up n wback rn crd cp off) :=
  of_body (coprocTransfers ..)

theorem cdp (c : Cond) (op1 crn crd cp : BitVec 4) (op2 : BitVec 3) (crm : BitVec 4) :
    Statement (.cdp c op1 crn crd cp op2 crm) :=
  of_body (coprocOperations ..)

theorem mcr (c : Cond) (op1 : BitVec 3) (crn : BitVec 4) (rd : RegIdx) (cp : BitVec 4) (op2 : BitVec 3)
    (crm : BitVec 4) :
    Statement (.mcr c op1 crn rd cp op2 crm) :=
  of_body (coprocRegisters ..)

theorem mrc (c : Cond) (op1 : BitVec 3) (crn : BitVec 4) (rd : RegIdx) (cp : BitVec 4) (op2 : BitVec 3)
    (crm : BitVec 4) :
    Statement (.mrc c op1 crn rd cp op2 crm) :=
  of_body (coprocRegisters ..)

theorem swi (c : Cond) (comment : BitVec 24) :
    Statement (.swi c comment) :=
  of_body (by simp (disch := omega) [Instr.body, field_put_above])

theorem mrs (c : Cond) (psr : PsrSel) (rd : RegIdx) :
    Statement (.mrs c psr rd) :=
  of_body (by simp (disch := omega) [Instr.body, field_putBit, field_putReg, field_put_above])

theorem msrReg (c : Cond) (psr : PsrSel) (fields : MsrFields) (ignored : BitVec 2) (rm : RegIdx) :
    Statement (.msrReg c psr fields ignored rm) :=
  of_body (by simp (disch := omega) [Instr.body, field_putReg, msrs])

theorem msrImm (c : Cond) (psr : PsrSel) (fields : MsrFields) (ignored : BitVec 2) (rot : BitVec 4) (imm8 : BitVec 8) :
    Statement (.msrImm c psr fields ignored rot imm8) :=
  of_body (by simp (disch := omega) [Instr.body, field_putBit, field_put_above, msrs])

theorem undefTest (c : Cond) (imm : Bool) (op : BitVec 2) (rn rd : RegIdx) (rest : BitVec 12) :
    Statement (.undefTest c imm op rn rd rest) :=
  of_body (by simp (disch := omega) [Instr.body, field_putBit, field_putReg, field_put_above])

theorem and (c : Cond) (sf : Bool) (rn rd : RegIdx) (op2 : Operand2) :
    Statement (.and c sf rn rd op2) :=
  of_body (dataProcessing ..)

theorem eor (c : Cond) (sf : Bool) (rn rd : RegIdx) (op2 : Operand2) :
    Statement (.eor c sf rn rd op2) :=
  of_body (dataProcessing ..)

theorem sub (c : Cond) (sf : Bool) (rn rd : RegIdx) (op2 : Operand2) :
    Statement (.sub c sf rn rd op2) :=
  of_body (dataProcessing ..)

theorem rsb (c : Cond) (sf : Bool) (rn rd : RegIdx) (op2 : Operand2) :
    Statement (.rsb c sf rn rd op2) :=
  of_body (dataProcessing ..)

theorem add (c : Cond) (sf : Bool) (rn rd : RegIdx) (op2 : Operand2) :
    Statement (.add c sf rn rd op2) :=
  of_body (dataProcessing ..)

theorem adc (c : Cond) (sf : Bool) (rn rd : RegIdx) (op2 : Operand2) :
    Statement (.adc c sf rn rd op2) :=
  of_body (dataProcessing ..)

theorem sbc (c : Cond) (sf : Bool) (rn rd : RegIdx) (op2 : Operand2) :
    Statement (.sbc c sf rn rd op2) :=
  of_body (dataProcessing ..)

theorem rsc (c : Cond) (sf : Bool) (rn rd : RegIdx) (op2 : Operand2) :
    Statement (.rsc c sf rn rd op2) :=
  of_body (dataProcessing ..)

theorem tst (c : Cond) (rn rd : RegIdx) (op2 : Operand2) :
    Statement (.tst c rn rd op2) :=
  of_body (dataProcessing ..)

theorem teq (c : Cond) (rn rd : RegIdx) (op2 : Operand2) :
    Statement (.teq c rn rd op2) :=
  of_body (dataProcessing ..)

theorem cmp (c : Cond) (rn rd : RegIdx) (op2 : Operand2) :
    Statement (.cmp c rn rd op2) :=
  of_body (dataProcessing ..)

theorem cmn (c : Cond) (rn rd : RegIdx) (op2 : Operand2) :
    Statement (.cmn c rn rd op2) :=
  of_body (dataProcessing ..)

theorem orr (c : Cond) (sf : Bool) (rn rd : RegIdx) (op2 : Operand2) :
    Statement (.orr c sf rn rd op2) :=
  of_body (dataProcessing ..)

theorem mov (c : Cond) (sf : Bool) (rn rd : RegIdx) (op2 : Operand2) :
    Statement (.mov c sf rn rd op2) :=
  of_body (dataProcessing ..)

theorem bic (c : Cond) (sf : Bool) (rn rd : RegIdx) (op2 : Operand2) :
    Statement (.bic c sf rn rd op2) :=
  of_body (dataProcessing ..)

theorem mvn (c : Cond) (sf : Bool) (rn rd : RegIdx) (op2 : Operand2) :
    Statement (.mvn c sf rn rd op2) :=
  of_body (dataProcessing ..)

theorem fallback (c : Cond) :
    Statement (.fallback c) :=
  of_body (by simp [Instr.body, field])

end Sys2Proof.Laws.EncodesCondition
end

