-- ==== Sys2Proof/Machine/Assembler.lean ====
section
/-! DEFINITION. The assembler text of an instruction (30_encoding R350) and the expansions of the pseudo-instructions
(R351). The machine never reads text: nothing else of the model uses this file. -/

namespace Sys2Proof.Machine

/-! ## Operand text -/

/-- A general register, by its number: R13, R14 and R15 for SP, LR and PC. R350 does not say which name is printed.
DESIGN CHOICE (entry 26). -/
def regText (r : RegIdx) : String := "R" ++ toString r.val

/-- A number as an immediate operand, in decimal. R350 does not fix the number base. DESIGN CHOICE (entry 26). -/
def immText (n : Nat) : String := "#" ++ toString n

/-- Operands with a comma and a space between them. -/
def commaText (parts : List String) : String := String.intercalate ", " parts

/-- The opening and the closing brace. -/
def braced (s : String) : String := String.singleton (Char.ofNat 123) ++ s ++ String.singleton (Char.ofNat 125)

/-- The condition suffix; AL is omitted (R350). -/
def condText : Cond → String
  | .eq => "EQ"
  | .ne => "NE"
  | .cs => "CS"
  | .cc => "CC"
  | .mi => "MI"
  | .pl => "PL"
  | .vs => "VS"
  | .vc => "VC"
  | .hi => "HI"
  | .ls => "LS"
  | .ge => "GE"
  | .lt => "LT"
  | .gt => "GT"
  | .le => "LE"
  | .al => ""

/-- The suffix of a set bit. -/
def suffix (b : Bool) (text : String) : String := if b then text else ""

/-- A shift mnemonic. -/
def shiftText : ShiftType → String
  | .lsl => "LSL"
  | .lsr => "LSR"
  | .asr => "ASR"
  | .ror => "ROR"

/-- A register shifted by an immediate: nothing is written for LSL #0, ROR #0 is RRX (R350), and the amount field 0 of LSR
and ASR means #32 (41_shifter R452). -/
def shiftImmText (rm : RegIdx) (ty : ShiftType) (n : Nat) : String :=
  match ty, n with
  | .lsl, 0 => regText rm
  | .ror, 0 => regText rm ++ ", RRX"
  | _, 0 => regText rm ++ ", " ++ shiftText ty ++ " " ++ immText 32
  | _, _ => regText rm ++ ", " ++ shiftText ty ++ " " ++ immText n

/-- Operand 2 (R350). -/
def operand2Text : Operand2 → String
  | .imm rot imm8 => immText (rotatedImm rot imm8).toNat
  | .shiftImm rm ty amount => shiftImmText rm ty amount.toNat
  | .shiftReg rm ty rs => regText rm ++ ", " ++ shiftText ty ++ " " ++ regText rs

/-- The sign of an offset, by U: nothing for +, and a subtracted offset of 0 is printed #-0. DESIGN CHOICE (entry 26). -/
def signText (up : Bool) : String := suffix (!up) "-"

/-- A single-transfer offset with its sign. -/
def offsetText (up : Bool) : Offset → String
  | .imm imm12 => "#" ++ signText up ++ toString imm12.toNat
  | .reg rm ty amount => signText up ++ shiftImmText rm ty amount.toNat

/-- A halfword offset with its sign. -/
def halfOffsetText (up : Bool) : HalfOffset → String
  | .imm imm8 => "#" ++ signText up ++ toString imm8.toNat
  | .reg rm => signText up ++ regText rm

/-- An address, pre-indexed or post-indexed (R350). An offset of 0 is printed too. R350 does not say how P = 0 with W = 1 is
written where it is no T form: for a halfword or signed transfer it is printed as post-indexed, the same text as P = 0
with W = 0. DESIGN CHOICE (entry 26). -/
def addressText (pre wback : Bool) (rn : RegIdx) (offset : String) : String :=
  if pre then "[" ++ regText rn ++ ", " ++ offset ++ "]" ++ suffix wback "!" else "[" ++ regText rn ++ "], " ++ offset

/-- A register list, in braces. R350 does not say whether consecutive registers are printed as a range (R4-R7): each is
printed singly, in ascending order, and an empty list as empty braces. DESIGN CHOICE (entry 26). -/
def listText (list : BitVec 16) : String := braced (commaText ((namedRegs list).map regText))

/-- The PSR of an MRS. -/
def psrText : PsrSel → String
  | .cpsr => "CPSR"
  | .spsr => "SPSR"

/-- The PSR and the fields f, s, x, c of an MSR (R350), s and x too, which have no effect (R337). R350 does not say in
which order they are printed or what stands for an empty mask: they are printed in its order, and nothing for none of
them. DESIGN CHOICE (entry 26). -/
def psrFieldsText (psr : PsrSel) (fields : MsrFields) (ignored : BitVec 2) : String :=
  psrText psr ++ "_" ++ suffix fields.flags "f" ++ suffix (ignored.getLsbD 1) "s" ++ suffix (ignored.getLsbD 0) "x" ++
    suffix fields.ctrl "c"

/-- A coprocessor register. -/
def coprocRegText (v : BitVec 4) : String := "c" ++ toString v.toNat

/-! ## Instruction text -/

/-- An opcode that writes a result from Rn and operand 2. -/
def dataText (op : String) (c : Cond) (sf : Bool) (rn rd : RegIdx) (op2 : Operand2) : String :=
  op ++ condText c ++ suffix sf "S" ++ " " ++ commaText [regText rd, regText rn, operand2Text op2]

/-- MOV and MVN. -/
def moveText (op : String) (c : Cond) (sf : Bool) (rd : RegIdx) (op2 : Operand2) : String :=
  op ++ condText c ++ suffix sf "S" ++ " " ++ commaText [regText rd, operand2Text op2]

/-- A test opcode; S is implied. -/
def testText (op : String) (c : Cond) (rn : RegIdx) (op2 : Operand2) : String :=
  op ++ condText c ++ " " ++ commaText [regText rn, operand2Text op2]

/-- A list of plain registers. -/
def regsText (op : String) (c : Cond) (sf : Bool) (rs : List RegIdx) : String :=
  op ++ condText c ++ suffix sf "S" ++ " " ++ commaText (rs.map regText)

/-- A load or store: the size letters follow the condition (R350). -/
def transferText (op : String) (c : Cond) (size : String) (rd : RegIdx) (address : String) : String :=
  op ++ condText c ++ size ++ " " ++ commaText [regText rd, address]

/-- The increment or decrement letters of a block transfer. -/
def blockModeText (pre up : Bool) : String := (if up then "I" else "D") ++ if pre then "B" else "A"

/-- A block transfer. -/
def blockText (op : String) (c : Cond) (pre up wback user : Bool) (rn : RegIdx) (list : BitVec 16) : String :=
  op ++ condText c ++ blockModeText pre up ++ " " ++ regText rn ++ suffix wback "!" ++ ", " ++ listText list ++
    suffix user "^"

/-- LDC and STC; the offset counts words. R350 does not say how P = 0 with W = 0 is written: it is printed as post-indexed,
the same text as P = 0 with W = 1. DESIGN CHOICE (entry 26). -/
def coprocTransferText (op : String) (c : Cond) (pre up n wback : Bool) (rn : RegIdx) (crd cp : BitVec 4)
    (off : BitVec 8) : String :=
  op ++ condText c ++ suffix n "L" ++ " " ++
    commaText ["p" ++ toString cp.toNat, coprocRegText crd,
      addressText pre wback rn ("#" ++ signText up ++ toString (4 * off.toNat))]

/-- MCR and MRC (entry 26). -/
def coprocRegisterText (op : String) (c : Cond) (op1 : BitVec 3) (crn : BitVec 4) (rd : RegIdx) (cp : BitVec 4)
    (op2 : BitVec 3) (crm : BitVec 4) : String :=
  op ++ condText c ++ " " ++
    commaText ["p" ++ toString cp.toNat, toString op1.toNat, regText rd, coprocRegText crn, coprocRegText crm,
      toString op2.toNat]

/-- The address a branch at `address` names; a label is printed as its address. -/
def labelText (address : Word) (off : BitVec 24) : String :=
  toString (address + 8#32 + (off ++ 0#2 : BitVec 26).signExtend 32).toNat

/-- The text of an instruction at an address; the undefined encodings and the fallback have none (R350). A halfword or signed transfer with P = 0 and W = 1 has the text of W = 0. DESIGN CHOICE (entry 26). -/
def asmText (address : Word) : Instr → Option String
  | .mul c sf rd _ rs rm => some (regsText "MUL" c sf [rd, rm, rs])
  | .mla c sf rd rn rs rm => some (regsText "MLA" c sf [rd, rm, rs, rn])
  | .umull c sf rdHi rdLo rs rm => some (regsText "UMULL" c sf [rdLo, rdHi, rm, rs])
  | .umlal c sf rdHi rdLo rs rm => some (regsText "UMLAL" c sf [rdLo, rdHi, rm, rs])
  | .smull c sf rdHi rdLo rs rm => some (regsText "SMULL" c sf [rdLo, rdHi, rm, rs])
  | .smlal c sf rdHi rdLo rs rm => some (regsText "SMLAL" c sf [rdLo, rdHi, rm, rs])
  | .swp c rn rd rm => some (transferText "SWP" c "" rd (regText rm ++ ", [" ++ regText rn ++ "]"))
  | .swpb c rn rd rm => some (transferText "SWP" c "B" rd (regText rm ++ ", [" ++ regText rn ++ "]"))
  | .bx c rm => some (regsText "BX" c false [rm])
  | .ldrh c pre up wb rn rd off => some (transferText "LDR" c "H" rd (addressText pre wb rn (halfOffsetText up off)))
  | .strh c pre up wb rn rd off => some (transferText "STR" c "H" rd (addressText pre wb rn (halfOffsetText up off)))
  | .ldrsb c pre up wb rn rd off => some (transferText "LDR" c "SB" rd (addressText pre wb rn (halfOffsetText up off)))
  | .ldrsh c pre up wb rn rd off => some (transferText "LDR" c "SH" rd (addressText pre wb rn (halfOffsetText up off)))
  | .undefHalfword .. | .undefSignedStore .. | .undefGap .. | .undefTest .. | .fallback .. => none
  | .ldrt c up rn rd off => some (transferText "LDR" c "T" rd (addressText false true rn (offsetText up off)))
  | .strt c up rn rd off => some (transferText "STR" c "T" rd (addressText false true rn (offsetText up off)))
  | .ldrbt c up rn rd off => some (transferText "LDR" c "BT" rd (addressText false true rn (offsetText up off)))
  | .strbt c up rn rd off => some (transferText "STR" c "BT" rd (addressText false true rn (offsetText up off)))
  | .ldr c pre up wb rn rd off => some (transferText "LDR" c "" rd (addressText pre wb rn (offsetText up off)))
  | .str c pre up wb rn rd off => some (transferText "STR" c "" rd (addressText pre wb rn (offsetText up off)))
  | .ldrb c pre up wb rn rd off => some (transferText "LDR" c "B" rd (addressText pre wb rn (offsetText up off)))
  | .strb c pre up wb rn rd off => some (transferText "STR" c "B" rd (addressText pre wb rn (offsetText up off)))
  | .ldmRet c pre up wb rn list => some (blockText "LDM" c pre up wb true rn list)
  | .ldmUser c pre up wb rn list => some (blockText "LDM" c pre up wb true rn list)
  | .stmUser c pre up wb rn list => some (blockText "STM" c pre up wb true rn list)
  | .ldmia c wb rn list => some (blockText "LDM" c false true wb false rn list)
  | .ldmib c wb rn list => some (blockText "LDM" c true true wb false rn list)
  | .ldmda c wb rn list => some (blockText "LDM" c false false wb false rn list)
  | .ldmdb c wb rn list => some (blockText "LDM" c true false wb false rn list)
  | .stmia c wb rn list => some (blockText "STM" c false true wb false rn list)
  | .stmib c wb rn list => some (blockText "STM" c true true wb false rn list)
  | .stmda c wb rn list => some (blockText "STM" c false false wb false rn list)
  | .stmdb c wb rn list => some (blockText "STM" c true false wb false rn list)
  | .b c off => some ("B" ++ condText c ++ " " ++ labelText address off)
  | .bl c off => some ("BL" ++ condText c ++ " " ++ labelText address off)
  | .ldc c pre up n wb rn crd cp off => some (coprocTransferText "LDC" c pre up n wb rn crd cp off)
  | .stc c pre up n wb rn crd cp off => some (coprocTransferText "STC" c pre up n wb rn crd cp off)
  | .cdp c op1 crn crd cp op2 crm =>
    some ("CDP" ++ condText c ++ " " ++
      commaText ["p" ++ toString cp.toNat, toString op1.toNat, coprocRegText crd, coprocRegText crn, coprocRegText crm,
        toString op2.toNat])
  | .mcr c op1 crn rd cp op2 crm => some (coprocRegisterText "MCR" c op1 crn rd cp op2 crm)
  | .mrc c op1 crn rd cp op2 crm => some (coprocRegisterText "MRC" c op1 crn rd cp op2 crm)
  | .swi c comment => some ("SWI" ++ condText c ++ " " ++ immText comment.toNat)
  | .mrs c psr rd => some ("MRS" ++ condText c ++ " " ++ commaText [regText rd, psrText psr])
  | .msrReg c psr fields ignored rm =>
    some ("MSR" ++ condText c ++ " " ++ commaText [psrFieldsText psr fields ignored, regText rm])
  | .msrImm c psr fields ignored rot imm8 =>
    some ("MSR" ++ condText c ++ " " ++
      commaText [psrFieldsText psr fields ignored, immText (rotatedImm rot imm8).toNat])
  | .and c sf rn rd op2 => some (dataText "AND" c sf rn rd op2)
  | .eor c sf rn rd op2 => some (dataText "EOR" c sf rn rd op2)
  | .sub c sf rn rd op2 => some (dataText "SUB" c sf rn rd op2)
  | .rsb c sf rn rd op2 => some (dataText "RSB" c sf rn rd op2)
  | .add c sf rn rd op2 => some (dataText "ADD" c sf rn rd op2)
  | .adc c sf rn rd op2 => some (dataText "ADC" c sf rn rd op2)
  | .sbc c sf rn rd op2 => some (dataText "SBC" c sf rn rd op2)
  | .rsc c sf rn rd op2 => some (dataText "RSC" c sf rn rd op2)
  | .tst c rn _ op2 => some (testText "TST" c rn op2)
  | .teq c rn _ op2 => some (testText "TEQ" c rn op2)
  | .cmp c rn _ op2 => some (testText "CMP" c rn op2)
  | .cmn c rn _ op2 => some (testText "CMN" c rn op2)
  | .orr c sf rn rd op2 => some (dataText "ORR" c sf rn rd op2)
  | .mov c sf _ rd op2 => some (moveText "MOV" c sf rd op2)
  | .bic c sf rn rd op2 => some (dataText "BIC" c sf rn rd op2)
  | .mvn c sf _ rd op2 => some (moveText "MVN" c sf rd op2)

/-! ## Pseudo-instructions (30_encoding R351) -/

/-- The pseudo-instructions. The address fields are absolute; `pool` is where a literal-pool word stands. The `amount` of a
shift mnemonic is the 5-bit amount field: R351 does not say what #n is at 0 and 32. DESIGN CHOICE (entry 26). -/
inductive Pseudo where
  | nop
  | adr (rd : RegIdx) (label : Word)
  | ldrConst (rd : RegIdx) (const pool : Word)
  | push (list : BitVec 16)
  | pop (list : BitVec 16)
  | shift (ty : ShiftType) (rd rm : RegIdx) (amount : BitVec 5)
  | rrx (rd rm : RegIdx)
  | neg (rd rm : RegIdx)
deriving DecidableEq, Repr

/-- The rotated immediate of a value (30_encoding R330), none where there is none. Of several the one with the smallest
rotate field. DESIGN CHOICE (entry 26): R351 does not say which. -/
def encodableImm (v : Word) : Option Operand2 :=
  ((List.range 16).find? fun rot => (v.rotateLeft (2 * rot)).toNat < 256).map fun rot =>
    .imm (BitVec.ofNat 4 rot) ((v.rotateLeft (2 * rot)).extractLsb' 0 8)

/-- What a pseudo-instruction expands to: an instruction, and the address and value of the literal-pool word it loads, if
it loads one (R351). -/
structure Expansion where
  instr : Instr
  literal : Option (Word × Word)
deriving DecidableEq, Repr

/-- `LDR Rd, [PC, #off]` with the literal-pool word at `pool`, ahead (U = 1) or behind (U = 0); none where the address is
out of reach or not word-aligned. R351 does not say where the pool stands or what happens there. DESIGN CHOICE
(entry 26). -/
def literalLoad (address : Word) (rd : RegIdx) (const pool : Word) : Option Expansion :=
  let ahead := pool - (address + 8#32)
  let behind := address + 8#32 - pool
  if pool.extractLsb' 0 2 ≠ 0#2 then none
  else if ahead.toNat < 4096 then
    some ⟨.ldr .al true true false 15 rd (.imm (ahead.extractLsb' 0 12)), some (pool, const)⟩
  else if behind.toNat < 4096 then
    some ⟨.ldr .al true false false 15 rd (.imm (behind.extractLsb' 0 12)), some (pool, const)⟩
  else none

/-- What a pseudo-instruction at an address expands to (R351); none where no form encodes it. DESIGN
CHOICE (entry 26), where R351 leaves it open:
- ADR: the rule gives one d = label - (address + 8) for both forms. ADD takes d, SUB takes the negated distance
  (address + 8) - label; ADD is taken when both encode.
- LDR Rd, =const: MOV is taken when both MOV and MVN encode.
- Shift mnemonics: #n is the 5-bit amount field as 41_shifter R452 reads it, so LSR and ASR with amount 0 shift by 32 and
  ROR with amount 0 is RRX. -/
def Pseudo.expand (address : Word) : Pseudo → Option Expansion
  | .nop => some ⟨.mov .al false 0 0 (.shiftImm 0 .lsl 0#5), none⟩
  | .adr rd label =>
    match encodableImm (label - (address + 8#32)), encodableImm (address + 8#32 - label) with
    | some op2, _ => some ⟨.add .al false 15 rd op2, none⟩
    | none, some op2 => some ⟨.sub .al false 15 rd op2, none⟩
    | none, none => none
  | .ldrConst rd const pool =>
    match encodableImm const, encodableImm (~~~const) with
    | some op2, _ => some ⟨.mov .al false 0 rd op2, none⟩
    | none, some op2 => some ⟨.mvn .al false 0 rd op2, none⟩
    | none, none => literalLoad address rd const pool
  | .push list => some ⟨.stmdb .al true 13 list, none⟩
  | .pop list => some ⟨.ldmia .al true 13 list, none⟩
  | .shift ty rd rm amount => some ⟨.mov .al false 0 rd (.shiftImm rm ty amount), none⟩
  | .rrx rd rm => some ⟨.mov .al false 0 rd (.shiftImm rm .ror 0#5), none⟩
  | .neg rd rm => some ⟨.rsb .al false rm rd (.imm 0#4 0#8), none⟩

/-- Memory with the literal-pool word of an expansion placed (R351). -/
def Expansion.place (e : Expansion) (m : Memory) : Memory :=
  match e.literal with
  | some (pool, const) => writeBytes m pool (wordBytes const)
  | none => m

/-- A stack alias of a block transfer: full or empty, descending or ascending (30_encoding R350). -/
inductive StackKind where
  | fd | ed | fa | ea
deriving DecidableEq, Repr

/-- P and U of a stack alias, for a load or a store (entry 26). -/
def StackKind.indexing (load : Bool) : StackKind → Bool × Bool
  | .fd => (!load, load)
  | .ed => (load, load)
  | .fa => (!load, !load)
  | .ea => (load, !load)

end Sys2Proof.Machine
end

