-- ==== Sys2Proof/Tests/Slice0.lean ====
section
/-! SUPPORT. Tests: ill-formed terms that the check refuses, every constructor's decoding from a word written from the
spec's encoding (30_encoding), one step for each instruction with the outcome of 95_test_vectors.md (sections 1 and 2
unless a comment names another source), the assembler text, and for each obligation a state and operands that meet its
hypotheses. -/

namespace Sys2Proof.Tests

open Sys2Proof.Machine

/-! ## Helpers -/

/-- The state after reset in a setting of ARM_COMPLETION, changed from left to right. -/
def prepared (completion : Bool) (preps : List (State → State)) : State :=
  preps.foldl (fun s f => f s) (State.resetWith completion [])

/-- A register of the current view set. -/
def reg (r : RegIdx) (v : Word) : State → State := writeReg r v

/-- The flags set from NZCV. -/
def nzcv (v : BitVec 4) : State → State := setFlags flagParts ⟨v.getLsbD 3, v.getLsbD 2, v.getLsbD 1, v.getLsbD 0⟩

/-- Another mode. -/
def inMode (m : Mode) : State → State := fun s => { s with cpsr := { s.cpsr with mode := m } }

/-- IRQ and FIQ unmasked. -/
def unmasked : State → State := fun s => { s with cpsr := { s.cpsr with i := false, f := false } }

/-- Another pc. -/
def pcAt (a : Word) : State → State := fun s => { s with pc := a }

/-- A word of memory set. -/
def word (a v : Word) : State → State := fun s => { s with mem := writeBytes s.mem a (wordBytes v) }

/-- An SPSR set. -/
def spsr (m : Mode) (v : BitVec 4) (control : BitVec 8) : State → State :=
  setSpsr m ⟨⟨v.getLsbD 3, v.getLsbD 2, v.getLsbD 1, v.getLsbD 0⟩, control⟩

/-- Parts left without a value. -/
def unwritten (ps : List UnwrittenPart) : State → State := fun s => { s with unwritten := ps }

/-- The hazard bit set. -/
def hazard : State → State := fun s => { s with ldmUserHazard := true }

/-- The start of the block loads of 95 section 2.9. -/
def blockWords : List (State → State) :=
  [reg 0 0x1000#32, word 0xFFC#32 0xA#32, word 0x1000#32 0xB#32, word 0x1004#32 0xC#32, word 0x1008#32 0xD#32]

/-- The start of the block stores of 95 section 2.9. -/
def blockRegs : List (State → State) := [reg 0 0x1000#32, reg 1 1#32, reg 2 2#32]

/-- The frame an exception return pops in 95 section 2.9. -/
def returnFrame : List (State → State) :=
  [inMode .irq, reg 13 0x2000#32, word 0x2000#32 7#32, word 0x2004#32 0x100#32, spsr .irq 0#4 0x10#8]

/-- The flags as NZCV. -/
def flagBits (s : State) : BitVec 4 :=
  BitVec.ofBool s.cpsr.flags.n ++ BitVec.ofBool s.cpsr.flags.z ++ BitVec.ofBool s.cpsr.flags.c ++
    BitVec.ofBool s.cpsr.flags.v

/-- What the step of a word gives, by a reading of the next state. -/
def after {α : Type} (completion : Bool) (w : Nat) (preps : List (State → State)) (read : State → α) : Option α :=
  (stepOk ((prepared completion preps).withFetchWord 32 w)).map read

/-- The fault that a step ends in. -/
def faultOf : Result → Option Fault
  | .next _ => none
  | .fault f => some f
  | .refused _ => none

/-- The fault of the step of a word. -/
def faults (completion : Bool) (w : Nat) (preps : List (State → State)) : Option Fault :=
  faultOf (step ((prepared completion preps).withFetchWord 32 w))

/-- The decoder gives this instruction for a word, and it is well formed. -/
abbrev reads (w : Word) (i : Instr) : Prop := decodeWord w = .ok i ∧ i.wellFormed = true

/-! ## Well-formedness: a term that no word stands for -/

/-- SH = 00 with P = 0, U = 0 and I = 0 is the space of MUL and MLA (30_encoding R311). -/
theorem test_wf_undef_halfword : (Instr.undefHalfword .al false false false false false 0 0 0#4 0#4).wellFormed = false := by
  decide

/-- Bits 7:4 = 0000 with S = 0 is MRS or MSR (30_encoding R322). -/
theorem test_wf_undef_test : (Instr.undefTest .al false 0#2 0 0 0x000#12).wellFormed = false := by decide

/-- The BX words are no undefined test word (30_encoding R314). -/
theorem test_wf_undef_test_bx : (Instr.undefTest .al false 1#2 15 15 0xF1E#12).wellFormed = false := by decide

/-- P = 0 with W = 1 is the T form (46_single R758). -/
theorem test_wf_ldr : (Instr.ldr .al false true true 1 0 (.imm 4#12)).wellFormed = false := by decide

theorem test_wf_str : (Instr.str .al false true true 1 0 (.imm 4#12)).wellFormed = false := by decide

theorem test_wf_ldrb : (Instr.ldrb .al false true true 1 0 (.imm 4#12)).wellFormed = false := by decide

theorem test_wf_strb : (Instr.strb .al false true true 1 0 (.imm 4#12)).wellFormed = false := by decide

/-- An exception return lists R15 (30_encoding R307). -/
theorem test_wf_ldmRet : (Instr.ldmRet .al false true false 0 0x0001#16).wellFormed = false := by decide

/-- A user-bank LDM does not. -/
theorem test_wf_ldmUser : (Instr.ldmUser .al false true false 0 0x8001#16).wellFormed = false := by decide

/-- No word reaches the fallback entry (30_encoding R325). -/
theorem test_wf_fallback : (Instr.fallback .al).wellFormed = false := by decide

/-! ## Decoding: words written out from the encodings of 30_encoding.md, one in bits for each family -/

/-- cond 000000 A S Rd Rn Rs 1001 Rm (R303). -/
theorem test_decode_multiply :
    reads 0b1110_000000_0_1_0011_0000_0010_1001_0001#32 (.mul .al true 3 0 2 1) ∧
      reads 0b1110_000000_1_0_0011_0100_0010_1001_0001#32 (.mla .al false 3 4 2 1) := by decide

/-- cond 00001 U A S RdHi RdLo Rs 1001 Rm (R303). -/
theorem test_decode_multiply_long :
    reads 0b1110_00001_0_0_1_0001_0000_0011_1001_0010#32 (.umull .al true 1 0 3 2) ∧
      reads 0b1110_00001_0_1_0_0001_0000_0011_1001_0010#32 (.umlal .al false 1 0 3 2) ∧
      reads 0b1110_00001_1_0_0_0001_0000_0011_1001_0010#32 (.smull .al false 1 0 3 2) ∧
      reads 0b1110_00001_1_1_0_0001_0000_0011_1001_0010#32 (.smlal .al false 1 0 3 2) := by decide

/-- cond 00010 B 00 Rn Rd 0000 1001 Rm (R304). -/
theorem test_decode_swap :
    reads 0b1110_00010_0_00_0010_0000_0000_1001_0001#32 (.swp .al 2 0 1) ∧
      reads 0b1110_00010_1_00_0010_0000_0000_1001_0001#32 (.swpb .al 2 0 1) := by decide

/-- cond 00010010 1111 1111 1111 0001 Rm (R304). -/
theorem test_decode_branch_exchange : reads 0b1110_00010010_1111_1111_1111_0001_1110#32 (.bx .al 14) := by decide

/-- cond 000 P U I W L Rn Rd hi 1 S H 1 lo (R305). -/
theorem test_decode_halfword :
    reads 0b1110_000_1_1_1_0_1_0001_0000_0000_1_0_1_1_0010#32 (.ldrh .al true true false 1 0 (.imm 0x02#8)) ∧
      reads 0b1110_000_0_0_0_0_0_0001_0000_0000_1_0_1_1_0010#32 (.strh .al false false false 1 0 (.reg 2)) ∧
      reads 0b1110_000_1_1_1_1_1_0001_0000_1010_1_1_0_1_0101#32 (.ldrsb .al true true true 1 0 (.imm 0xA5#8)) ∧
      reads 0b1110_000_1_1_1_0_1_0001_0000_0000_1_1_1_1_0001#32 (.ldrsh .al true true false 1 0 (.imm 0x01#8)) := by
  decide

/-- The undefined encodings of the halfword space (95 section 2.8), the undefined gap (30_encoding R316) and the test
opcodes with S = 0 (95 section 1). -/
theorem test_decode_undefined :
    reads 0xE1B00090#32 (.undefHalfword .al true true false true true 0 0 0#4 0#4) ∧
      reads 0xE1C000D0#32 (.undefSignedStore .al true true true false false 0 0 0#4 0#4) ∧
      reads 0b1110_011_00000000000000000000_1_0000#32 (.undefGap .al 0#20 0#4) ∧
      reads 0b1110_00_0_1000_0_0000_0000_000010000001#32 (.undefTest .al false 0#2 0 0 0x081#12) ∧
      reads 0b1110_00_0_1001_0_0000_0000_000001110000#32 (.undefTest .al false 1#2 0 0 0x070#12) := by decide

/-- cond 01 I P U B W L Rn Rd offset (R306); P = 0 with W = 1 is the T form. -/
theorem test_decode_single_transfer :
    reads 0b1110_01_0_1_1_0_1_1_0001_0000_000000000100#32 (.ldr .al true true true 1 0 (.imm 4#12)) ∧
      reads 0b1110_01_1_1_1_0_0_1_0001_0000_00010_00_0_0010#32 (.ldr .al true true false 1 0 (.reg 2 .lsl 2#5)) ∧
      reads 0b1110_01_0_1_0_0_1_0_0001_0000_000000000100#32 (.str .al true false true 1 0 (.imm 4#12)) ∧
      reads 0b1110_01_0_1_1_1_0_1_0001_0000_000000000001#32 (.ldrb .al true true false 1 0 (.imm 1#12)) ∧
      reads 0b1110_01_0_0_1_1_0_0_0001_0000_000000000001#32 (.strb .al false true false 1 0 (.imm 1#12)) ∧
      reads 0b1110_01_0_0_1_0_1_1_0001_0000_000000000100#32 (.ldrt .al true 1 0 (.imm 4#12)) ∧
      reads 0b1110_01_0_0_1_0_1_0_0001_0000_000000000100#32 (.strt .al true 1 0 (.imm 4#12)) ∧
      reads 0b1110_01_0_0_1_1_1_1_0001_0000_000000000001#32 (.ldrbt .al true 1 0 (.imm 1#12)) ∧
      reads 0b1110_01_0_0_1_1_1_0_0001_0000_000000000001#32 (.strbt .al true 1 0 (.imm 1#12)) := by decide

/-- cond 100 P U S W L Rn list (R307). -/
theorem test_decode_block_load :
    reads 0b1110_100_0_1_0_0_1_0000_0000000000000110#32 (.ldmia .al false 0 6#16) ∧
      reads 0b1110_100_1_1_0_1_1_0000_0000000000000110#32 (.ldmib .al true 0 6#16) ∧
      reads 0b1110_100_0_0_0_0_1_0000_0000000000000110#32 (.ldmda .al false 0 6#16) ∧
      reads 0b1110_100_1_0_0_1_1_0000_0000000000000010#32 (.ldmdb .al true 0 2#16) ∧
      reads 0b1110_100_0_1_1_1_1_1101_1000000000000001#32 (.ldmRet .al false true true 13 0x8001#16) ∧
      reads 0b1110_100_0_1_1_0_1_0000_0000000100000000#32 (.ldmUser .al false true false 0 0x0100#16) := by decide

theorem test_decode_block_store :
    reads 0b1110_100_0_1_0_1_0_0000_0000000000000110#32 (.stmia .al true 0 6#16) ∧
      reads 0b1110_100_1_1_0_0_0_0000_0000000000000110#32 (.stmib .al false 0 6#16) ∧
      reads 0b1110_100_0_0_0_0_0_0000_0000000000000110#32 (.stmda .al false 0 6#16) ∧
      reads 0b1110_100_1_0_0_1_0_0000_0000000000000110#32 (.stmdb .al true 0 6#16) ∧
      reads 0b1110_100_0_1_1_0_0_0000_0010000000000000#32 (.stmUser .al false true false 0 0x2000#16) := by decide

/-- cond 101 L offset (R307). -/
theorem test_decode_branch :
    reads 0b0001_101_0_111111111111111111111100#32 (.b .ne 0xFFFFFC#24) ∧
      reads 0b1110_101_1_000000000000000000111110#32 (.bl .al 0x3E#24) := by decide

/-- cond 110 P U N W L Rn CRd cp# offset, cond 1110 op1 CRn CRd cp# op2 0 CRm, cond 1110 op1 L CRn Rd cp# op2 1 CRm
(R308). -/
theorem test_decode_coprocessor :
    reads 0b1110_110_1_1_0_0_1_0000_0000_0001_00000000#32 (.ldc .al true true false false 0 0#4 1#4 0#8) ∧
      reads 0b1110_110_1_1_0_0_0_0000_0000_0001_00000000#32 (.stc .al true true false false 0 0#4 1#4 0#8) ∧
      reads 0b1110_1110_0000_0000_0000_0001_000_0_0000#32 (.cdp .al 0#4 0#4 0#4 1#4 0#3 0#4) ∧
      reads 0b1110_1110_000_0_0001_0000_1111_000_1_0000#32 (.mcr .al 0#3 1#4 0 15#4 0#3 0#4) ∧
      reads 0b1110_1110_000_1_0000_0000_1111_000_1_0000#32 (.mrc .al 0#3 0#4 0 15#4 0#3 0#4) := by decide

/-- cond 1111 comment (R309). -/
theorem test_decode_swi : reads 0b1110_1111_000000000000000000000101#32 (.swi .al 5#24) := by decide

/-- cond 00010 P 00 1111 Rd 0000 0000 0000; cond 00010 P 10 mask 1111 0000 0000 Rm; cond 00110 P 10 mask 1111 rot imm8
(R302, R337). -/
theorem test_decode_status :
    reads 0b1110_00010_1_00_1111_0000_0000_0000_0000#32 (.mrs .al .spsr 0) ∧
      reads 0b1110_00010_1_10_1001_1111_0000_0000_0000#32 (.msrReg .al .spsr ⟨true, true⟩ 0#2 0) ∧
      reads 0b1110_00110_0_10_1000_1111_0010_00001111#32 (.msrImm .al .cpsr ⟨true, false⟩ 0#2 2#4 0x0F#8) ∧
      reads 0b1110_00110_0_10_0001_1111_0000_00011111#32 (.msrImm .al .cpsr ⟨false, true⟩ 0#2 0#4 0x1F#8) := by decide

/-- cond 00 I opcode S Rn Rd operand2 (R302), with each form of operand 2 (R330 to R332). -/
theorem test_decode_data_processing :
    reads 0b1110_00_0_0000_0_0001_0000_00000_00_0_0010#32 (.and .al false 1 0 (.shiftImm 2 .lsl 0#5)) ∧
      reads 0b1110_00_0_0001_1_0001_0000_00100_00_0_0010#32 (.eor .al true 1 0 (.shiftImm 2 .lsl 4#5)) ∧
      reads 0b1110_00_1_0010_1_1110_1111_0000_00000100#32 (.sub .al true 14 15 (.imm 0#4 4#8)) ∧
      reads 0b1110_00_1_0011_0_0001_0000_0000_00000000#32 (.rsb .al false 1 0 (.imm 0#4 0#8)) ∧
      reads 0b1110_00_0_0100_0_1111_1111_00010_00_0_0000#32 (.add .al false 15 15 (.shiftImm 0 .lsl 2#5)) ∧
      reads 0b1110_00_0_0101_1_0001_0000_00000_00_0_0010#32 (.adc .al true 1 0 (.shiftImm 2 .lsl 0#5)) ∧
      reads 0b1110_00_0_0110_0_0001_0000_00000_00_0_0010#32 (.sbc .al false 1 0 (.shiftImm 2 .lsl 0#5)) ∧
      reads 0b1110_00_0_0111_0_0001_0000_00000_00_0_0010#32 (.rsc .al false 1 0 (.shiftImm 2 .lsl 0#5)) := by decide

theorem test_decode_data_processing_tests_and_moves :
    reads 0b1110_00_1_1000_1_0000_0000_0000_00000001#32 (.tst .al 0 0 (.imm 0#4 1#8)) ∧
      reads 0b1110_00_0_1001_1_0000_0000_00000_00_0_0001#32 (.teq .al 0 0 (.shiftImm 1 .lsl 0#5)) ∧
      reads 0b1110_00_0_1010_1_0000_0000_00000_00_0_0001#32 (.cmp .al 0 0 (.shiftImm 1 .lsl 0#5)) ∧
      reads 0b1110_00_0_1011_1_0000_0000_00000_00_0_0001#32 (.cmn .al 0 0 (.shiftImm 1 .lsl 0#5)) ∧
      reads 0b1110_00_1_1100_0_0000_0000_0001_00000010#32 (.orr .al false 0 0 (.imm 1#4 2#8)) ∧
      reads 0b1110_00_0_1101_1_0000_0001_0010_0_11_1_0000#32 (.mov .al true 0 1 (.shiftReg 0 .ror 2)) ∧
      reads 0b1110_00_1_1110_0_0000_0000_0000_00011111#32 (.bic .al false 0 0 (.imm 0#4 0x1F#8)) ∧
      reads 0b1110_00_1_1111_1_0000_0000_0000_00000000#32 (.mvn .al true 0 0 (.imm 0#4 0#8)) := by decide

/-- Condition 1111 is refused by name (40_dispatch R421). -/
theorem test_decode_condition_nv : decodeWord 0xF3A00001#32 = .error .conditionNv := by decide

/-- A register-specified shift in a single transfer is the undefined gap (30_encoding R342, 95 section 2.7). -/
theorem test_decode_register_shift_gap : reads 0xE7910112#32 (.undefGap .al 0xC8808#20 2#4) := by decide

/-! ## One step: the expected outcome stands in 95_test_vectors.md -/

theorem test_and :
    after false 0xE0010002 [reg 1 0xF0F0F0F0#32, reg 2 0xFF00FF00#32] (fun t => (readReg t 0, t.pc)) =
      some (0xF000F000#32, 4#32) := by decide

theorem test_eors :
    after false 0xE0310202 [reg 1 0xF#32, reg 2 0x10000001#32] (fun t => (readReg t 0, flagBits t)) =
      some (0x1F#32, 0b0010#4) := by decide

theorem test_subs_borrow :
    after false 0xE0502001 [reg 1 1#32] (fun t => (readReg t 2, flagBits t)) =
      some (0xFFFFFFFF#32, 0b1000#4) := by decide

theorem test_subs_overflow :
    after false 0xE0502001 [reg 0 0x80000000#32, reg 1 1#32] (fun t => (readReg t 2, flagBits t)) =
      some (0x7FFFFFFF#32, 0b0011#4) := by decide

theorem test_rsb : after true 0xE2610000 [reg 1 1#32] (fun t => readReg t 0) = some 0xFFFFFFFF#32 := by decide

theorem test_rsb_unimplemented :
    faults false 0xE2610000 [reg 1 1#32] = some (.unimplemented (.dataProcessing 3#4 false)) := by decide

theorem test_adds_carry :
    after false 0xE0910002 [reg 1 0xFFFFFFFF#32, reg 2 1#32, nzcv 0b1001#4] (fun t => (readReg t 0, flagBits t)) =
      some (0#32, 0b0110#4) := by decide

theorem test_add_to_pc :
    after false 0xE08FF100 [reg 0 3#32, pcAt 0x100#32] (fun t => t.pc) = some 0x114#32 := by decide

theorem test_adcs :
    after true 0xE0B10002 [reg 1 0xFFFFFFFF#32, nzcv 0b0010#4] (fun t => (readReg t 0, flagBits t)) =
      some (0#32, 0b0110#4) := by decide

theorem test_sbc : after true 0xE0C10002 [reg 1 5#32, reg 2 3#32] (fun t => readReg t 0) = some 1#32 := by decide

theorem test_rsc :
    after true 0xE0E10002 [reg 1 3#32, reg 2 5#32, nzcv 0b0010#4] (fun t => readReg t 0) = some 2#32 := by decide

theorem test_tst :
    after false 0xE3100001 [reg 0 2#32, nzcv 0b0011#4] (fun t => (flagBits t, t.pc)) =
      some (0b0111#4, 4#32) := by decide

theorem test_teq : after true 0xE1300001 [reg 0 9#32, reg 1 9#32] (fun t => flagBits t) = some 0b0100#4 := by decide

theorem test_cmp : after false 0xE1500001 [reg 1 1#32] (fun t => flagBits t) = some 0b1000#4 := by decide

theorem test_cmn :
    after true 0xE1700001 [reg 0 1#32, reg 1 0xFFFFFFFF#32] (fun t => flagBits t) = some 0b0110#4 := by decide

theorem test_orr : after false 0xE3800102 [reg 0 1#32] (fun t => readReg t 0) = some 0x80000001#32 := by decide

theorem test_movs_rrx :
    after false 0xE1B01060 [reg 0 3#32, nzcv 0b0010#4] (fun t => (readReg t 1, flagBits t)) =
      some (0x80000001#32, 0b1010#4) := by decide

theorem test_movs_return :
    after true 0xE1B0F00E [inMode .irq, reg 14 0x104#32, spsr .irq 0#4 0x1F#8] (fun t => (t.pc, t.cpsr)) =
      some (0x104#32, ⟨⟨false, false, false, false⟩, false, false, false, .sys⟩) := by decide

/-- R15 in the Rn field that MOV does not read (41_shifter R460). -/
theorem test_mov_register_shift_rn : faults false 0xE1AF0211 [] = some (.unpredictable 460) := by decide

theorem test_bic : after true 0xE3C0001F [reg 0 0xD3#32] (fun t => readReg t 0) = some 0xC0#32 := by decide

theorem test_mvns :
    after true 0xE3F00000 [nzcv 0b0100#4] (fun t => (readReg t 0, flagBits t)) =
      some (0xFFFFFFFF#32, 0b1000#4) := by decide

theorem test_undef_test :
    faults false 0xE1000081 [reg 0 1#32, reg 1 1#32] = some (.undefined .dataProcessing) := by decide

theorem test_undef_test_trap :
    after true 0xE1000081 [reg 0 1#32, reg 1 1#32, pcAt 0x200#32]
        (fun t => (t.pc, t.cpsr.mode, t.regs.get (.und 1), spsrOf .und t)) =
      some (4#32, .und, 0x204#32, some ⟨⟨false, false, false, false⟩, 0xD3#8⟩) := by decide

theorem test_mul : after false 0xE0000291 [reg 1 6#32, reg 2 7#32] (fun t => readReg t 0) = some 42#32 := by decide

/-- C is drawn and not read here. -/
theorem test_muls :
    after false 0xE0100291 [reg 1 0xFFFFFFFF#32, reg 2 0xFFFFFFFF#32, nzcv 0b1101#4]
        (fun t => (readReg t 0, t.cpsr.flags.n, t.cpsr.flags.z, t.cpsr.flags.v)) =
      some (1#32, false, false, true) := by decide

theorem test_mla :
    after false 0xE0234291 [reg 1 3#32, reg 2 4#32, reg 4 5#32] (fun t => readReg t 3) = some 17#32 := by decide

theorem test_umull :
    after true 0xE0810392 [reg 2 0xFFFFFFFF#32, reg 3 0xFFFFFFFF#32] (fun t => (readReg t 0, readReg t 1)) =
      some (1#32, 0xFFFFFFFE#32) := by decide

/-- C and V are drawn and not read here. -/
theorem test_umulls :
    after true 0xE0910392 [reg 3 5#32, nzcv 0b1000#4]
        (fun t => (readReg t 0, readReg t 1, t.cpsr.flags.n, t.cpsr.flags.z)) =
      some (0#32, 0#32, false, true) := by decide

theorem test_umlal :
    after true 0xE0A10392 [reg 0 0xFFFFFFFF#32, reg 2 1#32, reg 3 1#32] (fun t => (readReg t 0, readReg t 1)) =
      some (0#32, 1#32) := by decide

theorem test_smull :
    after true 0xE0C10392 [reg 2 0xFFFFFFFF#32, reg 3 2#32] (fun t => (readReg t 0, readReg t 1)) =
      some (0xFFFFFFFE#32, 0xFFFFFFFF#32) := by decide

theorem test_smlal :
    after true 0xE0E10392 [reg 0 1#32, reg 2 0xFFFFFFFF#32, reg 3 1#32] (fun t => (readReg t 0, readReg t 1)) =
      some (0#32, 0#32) := by decide

theorem test_umull_same_halves :
    faults true 0xE0800392 [reg 2 1#32, reg 3 1#32] = some (.unpredictable 617) := by decide

theorem test_swp :
    after true 0xE1020091 [reg 1 5#32, reg 2 0x1000#32, word 0x1000#32 9#32]
        (fun t => (readReg t 0, readWord t.mem 0x1000#32)) =
      some (9#32, 5#32) := by decide

/-- The second byte of the word shows that one byte is stored. -/
theorem test_swpb :
    after true 0xE1420091 [reg 1 0x1FF#32, reg 2 0x1000#32, word 0x1000#32 0x3412#32]
        (fun t => (readReg t 0, readWord t.mem 0x1000#32)) =
      some (0x12#32, 0x34FF#32) := by decide

theorem test_bx_thumb :
    after false 0xE12FFF1E [reg 14 0x205#32] (fun t => (t.pc, t.cpsr.t)) = some (0x204#32, true) := by decide

theorem test_bx_misaligned : faults false 0xE12FFF1E [reg 14 0x206#32] = some (.unpredictable 721) := by decide

theorem test_ldrh_odd :
    after false 0xE1D100B1 [reg 1 0x1000#32, word 0x1000#32 0xBEEF#32] (fun t => readReg t 0) =
      some 0xEF0000BE#32 := by decide

theorem test_strh :
    after false 0xE1C100B1 [reg 0 0xCAFEBABE#32, reg 1 0x1000#32] (fun t => readWord t.mem 0x1000#32) =
      some 0xBABE#32 := by decide

theorem test_ldrsb :
    after false 0xE1D100D0 [reg 1 0x1000#32, word 0x1000#32 0xFE#32] (fun t => readReg t 0) =
      some 0xFFFFFFFE#32 := by decide

theorem test_ldrsh_odd :
    after true 0xE1D100F1 [reg 1 0x1000#32, word 0x1000#32 0x80FF#32] (fun t => readReg t 0) =
      some 0xFFFFFF80#32 := by decide

theorem test_undef_halfword : faults false 0xE1B00090 [] = some (.undefined .halfword) := by decide

theorem test_undef_signed_store : faults false 0xE1C000D0 [] = some (.undefined .halfword) := by decide

theorem test_undef_gap_trap :
    after true 0xE6000010 [inMode .sys, unmasked, pcAt 0x200#32]
        (fun t => (t.pc, t.cpsr.mode, t.cpsr.f, t.regs.get (.und 1), spsrOf .und t)) =
      some (4#32, .und, false, 0x204#32, some ⟨⟨false, false, false, false⟩, 0x1F#8⟩) := by decide

theorem test_ldr_unaligned :
    after false 0xE5910001 [reg 1 0x1000#32, word 0x1000#32 0x11223344#32] (fun t => readReg t 0) =
      some 0x44112233#32 := by decide

theorem test_ldr_base_loaded :
    after false 0xE5B11004 [reg 1 0x1000#32, word 0x1004#32 0x55#32] (fun t => (readReg t 1, t.pc)) =
      some (0x55#32, 4#32) := by decide

theorem test_str_unaligned :
    after false 0xE5810002 [reg 0 0xAABBCCDD#32, reg 1 0x1000#32] (fun t => readWord t.mem 0x1000#32) =
      some 0xAABBCCDD#32 := by decide

theorem test_str_prefetched :
    faults false 0xE5810000 [reg 0 1#32, reg 1 0x104#32, pcAt 0x100#32] = some (.selfModifyHazard 0x104#32) := by decide

theorem test_ldrb :
    after false 0xE5D10001 [reg 1 0x1000#32, word 0x1000#32 0x11223344#32] (fun t => readReg t 0) =
      some 0x33#32 := by decide

theorem test_strb :
    after false 0xE5C10000 [reg 0 0x12345678#32, reg 1 0x1003#32]
        (fun t => (readWord t.mem 0x1000#32, readWord t.mem 0x1004#32)) =
      some (0x78000000#32, 0#32) := by decide

theorem test_ldrt :
    after false 0xE4B10004 [reg 1 0x1000#32, word 0x1000#32 0x42#32] (fun t => (readReg t 0, readReg t 1)) =
      some (0x42#32, 0x1004#32) := by decide

theorem test_ldrbt :
    after false 0xE4F10001 [reg 1 0x1000#32, word 0x1000#32 0x1234#32] (fun t => (readReg t 0, readReg t 1)) =
      some (0x34#32, 0x1001#32) := by decide

theorem test_strt :
    after false 0xE4A10004 [reg 0 9#32, reg 1 0x1000#32] (fun t => (readWord t.mem 0x1000#32, readReg t 1)) =
      some (9#32, 0x1004#32) := by decide

theorem test_strbt :
    after false 0xE4E10001 [reg 0 0x1FF#32, reg 1 0x1000#32] (fun t => (readWord t.mem 0x1000#32, readReg t 1)) =
      some (0xFF#32, 0x1001#32) := by decide

theorem test_ldmia :
    after false 0xE8900006 blockWords (fun t => (readReg t 1, readReg t 2)) = some (0xB#32, 0xC#32) := by decide

theorem test_ldmia_empty_list :
    after false 0xE8B00000 [reg 0 0x1000#32, word 0x1000#32 0x200#32] (fun t => (t.pc, readReg t 0)) =
      some (0x200#32, 0x1040#32) := by decide

theorem test_ldmib :
    after false 0xE9B00006 blockWords (fun t => (readReg t 1, readReg t 2, readReg t 0)) =
      some (0xC#32, 0xD#32, 0x1008#32) := by decide

theorem test_ldmda :
    after false 0xE8100006 blockWords (fun t => (readReg t 1, readReg t 2)) = some (0xA#32, 0xB#32) := by decide

theorem test_ldmdb :
    after false 0xE9300002 blockWords (fun t => (readReg t 1, readReg t 0)) = some (0xA#32, 0xFFC#32) := by decide

theorem test_stmia_base_not_first :
    after false 0xE8A10003 [reg 0 7#32, reg 1 0x1000#32]
        (fun t => (readWord t.mem 0x1000#32, readWord t.mem 0x1004#32, readReg t 1)) =
      some (7#32, 0x1008#32, 0x1008#32) := by decide

theorem test_stmib :
    after false 0xE9800006 blockRegs (fun t => (readWord t.mem 0x1004#32, readWord t.mem 0x1008#32)) =
      some (1#32, 2#32) := by decide

theorem test_stmda :
    after false 0xE8000006 blockRegs (fun t => (readWord t.mem 0xFFC#32, readWord t.mem 0x1000#32)) =
      some (1#32, 2#32) := by decide

theorem test_stmdb :
    after false 0xE9200006 blockRegs (fun t => (readWord t.mem 0xFF8#32, readWord t.mem 0xFFC#32, readReg t 0)) =
      some (1#32, 2#32, 0xFF8#32) := by decide

theorem test_ldmRet :
    after true 0xE8FD8001 returnFrame (fun t => (readReg t 0, t.regs.get (.irq 0), t.cpsr.mode, t.pc)) =
      some (7#32, 0x2008#32, .usr, 0x100#32) := by decide

theorem test_ldmRet_no_spsr : faults true 0xE8FD8001 [inMode .sys] = some (.noSpsr .sys) := by decide

theorem test_ldmUser :
    after false 0xE8D00100 [inMode .fiq, reg 0 0x1000#32, reg 8 1#32, word 0x1000#32 0x55#32]
        (fun t => (readUser t 8, readReg t 8, t.ldmUserHazard)) =
      some (0x55#32, 1#32, true) := by decide

theorem test_ldmUser_in_user_mode : faults false 0xE8D00100 [inMode .usr] = some (.unpredictable 858) := by decide

theorem test_stmUser :
    after false 0xE8C02000 [inMode .usr, reg 13 0x7000#32, inMode .irq, reg 13 0x8000#32, reg 0 0x1000#32]
        (fun t => readWord t.mem 0x1000#32) =
      some 0x7000#32 := by decide

theorem test_b : after false 0xEAFFFFFD [pcAt 0x100#32] (fun t => t.pc) = some 0xFC#32 := by decide

theorem test_bl :
    after false 0xEBFFFFFE [pcAt 0x100#32] (fun t => (t.regs.get (.svc 1), t.pc)) =
      some (0x104#32, 0x100#32) := by decide

theorem test_swi :
    after true 0xEF000005 [inMode .usr, unmasked, nzcv 0b0100#4, pcAt 0x100#32]
        (fun t => (t.pc, t.cpsr.mode, t.cpsr.i && !t.cpsr.f, t.regs.get (.svc 1), spsrOf .svc t)) =
      some (8#32, .svc, true, 0x104#32, some ⟨⟨false, true, false, false⟩, 0x10#8⟩) := by decide

theorem test_swi_unimplemented : faults false 0xEF000005 [] = some (.unimplemented .softwareInterrupt) := by decide

theorem test_cdp_trap :
    after true 0xEE000100 [pcAt 0x200#32] (fun t => (t.pc, t.cpsr.mode, t.regs.get (.und 1), spsrOf .und t)) =
      some (4#32, .und, 0x204#32, some ⟨⟨false, false, false, false⟩, 0xD3#8⟩) := by decide

theorem test_ldc : faults false 0xED900100 [] = some (.unimplemented (.coprocDataTransfer true)) := by decide

theorem test_stc : faults false 0xED800100 [] = some (.unimplemented (.coprocDataTransfer false)) := by decide

theorem test_mcr : faults false 0xEE010F10 [] = some (.unimplemented (.coprocRegisterTransfer false)) := by decide

theorem test_mrc : faults false 0xEE100F10 [] = some (.unimplemented (.coprocRegisterTransfer true)) := by decide

/-- One value is drawn, for bits 27:8; the word read is the next test. -/
theorem test_mrs :
    after false 0xE10F0000 [nzcv 0b1000#4] (fun t => (t.pc, t.draws, flagBits t)) =
      some (4#32, 1, 0b1000#4) := by decide

/-- MRS of the CPSR reads flags 1000 and control byte 0xD3, of SPSR_irq flags 0100 and 0x1F, whatever is drawn. -/
theorem test_mrs_values :
    psrParts .cpsr (prepared false [nzcv 0b1000#4]) = ⟨⟨true, false, false, false⟩, 0xD3#8⟩ ∧
      psrParts .spsr (prepared false [inMode .irq, spsr .irq 0b0100#4 0x1F#8]) =
        ⟨⟨false, true, false, false⟩, 0x1F#8⟩ := by decide

theorem test_msr_register :
    after false 0xE169F000 [inMode .irq, reg 0 0x6000001F#32] (fun t => spsrOf .irq t) =
      some (some ⟨⟨false, true, true, false⟩, 0x1F#8⟩) := by decide

theorem test_msr_immediate :
    after false 0xE321F01F [] (fun t => (t.cpsr.mode, t.cpsr.i, t.cpsr.f)) = some (.sys, false, false) := by decide

theorem test_msr_invalid_mode : faults false 0xE321F014 [] = some (.unpredictable 662) := by decide

theorem test_failed_condition :
    after false 0x1F000005 [nzcv 0b0100#4] (fun t => (t.pc, t.cpsr.mode)) = some (4#32, .svc) := by decide

theorem test_user_bank_hazard : faults false 0xE1A00008 [hazard] = some (.ldmUserBankHazard 8) := by decide

/-- Rn of an undefined halfword, Rd of a signed store and Rm of an undefined test word; an Rd field of a test word is not
touched. -/
theorem test_user_bank_hazard_undefined :
    faults true 0xE1B80090 [hazard] = some (.ldmUserBankHazard 8) ∧
      faults true 0xE1C0E0D0 [hazard] = some (.ldmUserBankHazard 14) ∧
      faults true 0xE1000089 [hazard] = some (.ldmUserBankHazard 9) ∧
      faults false 0xE1008081 [hazard] = some (.undefined .dataProcessing) := by decide

/-! ## Parts without a value (10_state R121) -/

/-- The reset of R1101 as written (`State.resetUnwritten`) with a word at 0: an instruction that reads nothing runs, a
condition that reads Z does not (95 section 3). -/
theorem test_unwritten_reset :
    after false 0xE3A00001 [unwritten allParts] (fun t => (readReg t 0, t.pc)) = some (1#32, 4#32) ∧
      faults false 0x03A00001 [unwritten allParts] = some (.unwrittenRead .flagZ) := by decide

/-- C read by RRX, the source of MOV, the flags and the SPSR read by MRS, the target of BX. -/
theorem test_unwritten_reads :
    faults false 0xE1B01060 [reg 0 3#32, unwritten [.flagC]] = some (.unwrittenRead .flagC) ∧
      faults false 0xE1A00001 [unwritten [.reg (.low 1)]] = some (.unwrittenRead (.reg (.low 1))) ∧
      faults false 0xE10F0000 [unwritten flagParts] = some (.unwrittenRead .flagN) ∧
      faults false 0xE14F0000 [inMode .irq, unwritten (spsrParts .irq)] = some (.unwrittenRead (.spsrFlags .irq)) ∧
      faults false 0xE12FFF1E [unwritten [.reg (.svc 1)]] = some (.unwrittenRead (.reg (.svc 1))) := by decide

/-- MOVS with a kept carry writes N and Z and leaves C and V without a value; MSR CPSR_f gives all four one. -/
theorem test_unwritten_writes :
    after false 0xE3B00000 [unwritten flagParts] (fun t => (readReg t 0, t.cpsr.flags.n, t.cpsr.flags.z, t.unwritten)) =
        some (0#32, false, true, [.flagC, .flagV]) ∧
      after false 0xE328F20F [unwritten flagParts] (fun t => (flagBits t, t.unwritten)) = some (0b1111#4, []) := by decide

/-- An entry with the flags unwritten leaves the flags part of the SPSR unwritten, so that the return faults (95 section 3,
the last walk). -/
theorem test_unwritten_saved :
    after true 0xEF000005 [unwritten flagParts] (fun t => t.unwritten.contains (.spsrFlags .svc)) = some true ∧
      faults true 0xE1B0F00E [unwritten [.spsrFlags .svc]] = some (.unwrittenRead (.spsrFlags .svc)) := by decide

/-! ## Assembler text (30_encoding R350, R351): the texts stand beside their words in 95_test_vectors.md -/

/-- The text of a word at address 0. -/
def textOf (w : Word) : Option String :=
  match decodeWord w with
  | .ok i => asmText 0#32 i
  | .error _ => none

theorem test_text_data : textOf 0xE0310202#32 = some "EORS R0, R1, R2, LSL #4" := by decide

theorem test_text_transfer : textOf 0xE5B10004#32 = some "LDR R0, [R1, #4]!" := by decide

theorem test_text_block :
    textOf 0xE92D4010#32 = some ("STMDB R13!, " ++ braced "R4, R14") := by decide

/-- Field f; and field x, by R350's list of the fields. -/
theorem test_text_status :
    textOf 0xE328F20F#32 = some "MSR CPSR_f, #4026531840" ∧ textOf 0xE122F000#32 = some "MSR CPSR_x, R0" := by decide

/-- PUSH is STMDB SP! with the list, POP is LDMIA SP! (R351). -/
theorem test_pseudo_push_pop :
    Pseudo.expand 0#32 (.push 0x4010#16) = some ⟨.stmdb .al true 13 0x4010#16, none⟩ ∧
      Pseudo.expand 0#32 (.pop 0x8010#16) = some ⟨.ldmia .al true 13 0x8010#16, none⟩ := by decide

/-- `LDR R0, =0xFF000000` is a MOV; `=0xFFFFFFFE` an MVN; `=0x12345678` a load of a pool word that holds it (R351). -/
theorem test_pseudo_ldr_const :
    Pseudo.expand 0#32 (.ldrConst 0 0xFF000000#32 0x20#32) = some ⟨.mov .al false 0 0 (.imm 4#4 0xFF#8), none⟩ ∧
      Pseudo.expand 0#32 (.ldrConst 0 0xFFFFFFFE#32 0x20#32) = some ⟨.mvn .al false 0 0 (.imm 0#4 1#8), none⟩ ∧
      Pseudo.expand 0#32 (.ldrConst 0 0x12345678#32 0x20#32) =
        some ⟨.ldr .al true true false 15 0 (.imm 0x18#12), some (0x20#32, 0x12345678#32)⟩ := by decide

/-! ## Witnesses: for each obligation with hypotheses, a state and operands that meet them -/

/-- A ready instruction with everything it depends on written. -/
def Runs (i : Instr) (s : State) : Prop := Ready i s ∧ Written i s

/-- Its condition passes, no hazard is pending, and every part holds a value. -/
theorem ready_of {i : Instr} {s : State} (h : (condPass i.cond s.cpsr.flags && !s.ldmUserHazard) = true)
    (hu : s.unwritten = [] := by rfl) : Runs i s := by
  rw [Bool.and_eq_true, Bool.not_eq_true'] at h
  exact ⟨⟨by simp [Decided, hu], h.1, fun hz => absurd hz (by simp [h.2])⟩, by simp [Written, hu]⟩

theorem ready_all {L : List Instr} {s : State}
    (h : (L.all fun i => condPass i.cond s.cpsr.flags && !s.ldmUserHazard) = true)
    (hu : s.unwritten = [] := by rfl) : ∀ i ∈ L, Runs i s :=
  fun i hi => ready_of (List.all_eq_true.mp h i hi) hu

/-- A next state with a decided property. -/
def nextWith (r : Result) (p : State → Bool) : Bool :=
  match r with
  | .next t => p t
  | .fault _ => false
  | .refused _ => false

theorem exists_next {r : Result} {p : State → Bool} (h : nextWith r p = true) : ∃ t, r = .next t ∧ p t = true := by
  cases r with
  | next t => exact ⟨t, rfl, h⟩
  | fault f => exact absurd h (by simp [nextWith])
  | refused f => exact absurd h (by simp [nextWith])

theorem fault_of {r : Result} {f : Fault} (h : faultOf r = some f) : r = .fault f := by
  cases r with
  | next t => exact absurd h nofun
  | fault g => rw [Option.some.inj h]
  | refused g => exact absurd h nofun

/-- A description that a table gives, with a decided property. -/
theorem exists_some {α : Type} {o : Option α} {p : α → Bool} (h : o.any p = true) : ∃ x, o = some x ∧ p x = true := by
  cases o with
  | none => exact absurd h (by simp)
  | some x => exact ⟨x, rfl, by simpa using h⟩

/-- Supervisor mode, ARM_COMPLETION true, the registers in use holding addresses and data, C clear. -/
def start : State := prepared true [reg 1 0x1000#32, reg 2 4#32, word 0x1000#32 0x104#32]

/-- The same with C set. -/
def startCarry : State := prepared true [reg 1 0x1000#32, reg 2 4#32, nzcv 0b0010#4]

/-- IRQ mode with a saved User state of ARM code. -/
def inIrq : State := prepared true [inMode .irq, reg 1 0x1000#32, spsr .irq 0b1000#4 0x10#8, word 0x1000#32 0x104#32]

/-- IRQ mode with a saved User state of Thumb code. -/
def inIrqFromThumb : State := prepared true [inMode .irq, reg 1 0x1000#32, reg 2 4#32, spsr .irq 0b1000#4 0x30#8]

/-- The normative setting. -/
def normative : State := prepared false [reg 1 0x1000#32, reg 2 4#32]

/-- The twelve opcodes that write a result, into a register. -/
def resultForms (rd : RegIdx) (sf : Bool) : List Instr :=
  [.and .al sf 1 rd (.shiftImm 2 .lsl 0#5), .eor .al sf 1 rd (.shiftImm 2 .lsl 0#5),
   .sub .al sf 1 rd (.shiftImm 2 .lsl 0#5), .rsb .al sf 1 rd (.shiftImm 2 .lsl 0#5),
   .add .al sf 1 rd (.shiftImm 2 .lsl 0#5), .adc .al sf 1 rd (.shiftImm 2 .lsl 0#5),
   .orr .al sf 1 rd (.shiftImm 2 .lsl 0#5), .mov .al sf 0 rd (.shiftImm 2 .lsl 0#5),
   .bic .al sf 1 rd (.shiftImm 2 .lsl 0#5), .mvn .al sf 0 rd (.imm 0#4 3#8)]

/-- The two that need C set for an aligned result here. -/
def borrowForms (rd : RegIdx) (sf : Bool) : List Instr :=
  [.sbc .al sf 1 rd (.shiftImm 2 .lsl 0#5), .rsc .al sf 1 rd (.shiftImm 2 .lsl 0#5)]

theorem reset_inv : State.reset.Inv := ⟨by decide, by decide, by decide, by decide⟩

theorem witness_InvariantHoldsAtReset : Memory.wf [(0x100, 5#8)] = true := by decide

/-- Steps that leave ARM state and Thumb state; in the first state every part is written. -/
theorem witness_StepKeepsInvariant :
    (∃ s t, s.Inv ∧ s.unwritten = [] ∧ step s = .next t ∧ t.cpsr.t = false) ∧ ∃ s t, s.Inv ∧ step s = .next t ∧ t.cpsr.t = true := by
  refine ⟨⟨normative.withFetchWord 32 0xE3A00001, ?_⟩, ⟨(prepared false [reg 14 0x205#32]).withFetchWord 32 0xE12FFF1E, ?_⟩⟩
  · obtain ⟨t, h, ht⟩ := exists_next (r := step (normative.withFetchWord 32 0xE3A00001)) (p := fun t => !t.cpsr.t)
      (by decide)
    exact ⟨t, ⟨by decide, by decide, by decide, by decide⟩, rfl, h, by simpa using ht⟩
  · obtain ⟨t, h, ht⟩ := exists_next (r := step ((prepared false [reg 14 0x205#32]).withFetchWord 32 0xE12FFF1E))
      (p := fun t => t.cpsr.t) (by decide)
    exact ⟨t, ⟨by decide, by decide, by decide, by decide⟩, h, ht⟩

theorem witness_StepRunsDecodedInstruction :
    let s := normative.withFetchWord 32 0xE3A00001
    s.fault = none ∧ s.cpsr.t = false ∧ (Instr.mov .al false 0 0 (.imm 0#4 1#8)).wellFormed = true ∧
      decode [readByte s.mem s.pc, readByte s.mem (s.pc + 1#32), readByte s.mem (s.pc + 2#32),
        readByte s.mem (s.pc + 3#32)] = .ok (.mov .al false 0 0 (.imm 0#4 1#8), []) := by decide

/-- A fault, Thumb state, and a recorded fault. -/
theorem witness_FaultSetsTheRecordAlone :
    faults false 0xE2610000 [] = some (.unimplemented (.dataProcessing 3#4 false)) ∧
      (∃ s : State, s.fault = none ∧ s.cpsr.t = true) ∧ ∃ s : State, s.fault ≠ none :=
  ⟨by decide, ⟨{ State.reset with cpsr := { Cpsr.reset with t := true } }, by decide⟩,
    ⟨{ State.reset with fault := some ⟨.thumbState, none, 0#32⟩ }, by decide⟩⟩

theorem witness_ConditionNvFaults :
    let s := normative.withFetchWord 32 0xF3A00001
    s.fault = none ∧ s.cpsr.t = false ∧ (readByte s.mem (s.pc + 3#32)).extractLsb' 4 4 = 0b1111#4 := by decide

theorem witness_DecodeEncodeAgree :
    ∀ i ∈ resultForms 15 true ++ borrowForms 15 true, i.wellFormed = true := by decide

/-- A condition that fails, and one that reads an unwritten flag. -/
theorem witness_FailedConditionOnlySteps :
    (Decided (.swi .ne 5#24) (nzcv 0b0100#4 start) ∧
      condPass (Instr.swi .ne 5#24).cond (nzcv 0b0100#4 start).cpsr.flags = false) ∧
    ∃ p ∈ condParts (Instr.mov .eq false 0 0 (.imm 0#4 1#8)).cond, p ∈ (unwritten [.flagZ] start).unwritten :=
  ⟨⟨by unfold Decided; decide, by decide⟩, .flagZ, by decide, by decide⟩

/-- R8 and R14 are hazard registers, R7 and R15 are not; a user-bank LDM leaves the bit set. -/
theorem witness_UserBankHazard :
    (∀ r ∈ [(8 : RegIdx), 14], let i := Instr.mov .al false 0 0 (.shiftImm r .lsl 0#5)
      (hazard start).ldmUserHazard = true ∧ Decided i (hazard start) ∧ condPass i.cond (hazard start).cpsr.flags = true ∧
        ∃ q ∈ touched i, 8 ≤ q.val ∧ q.val ≤ 14) ∧
      (∀ r ∈ [(7 : RegIdx), 15],
        ∀ q ∈ touched (.mov .al false 0 0 (.shiftImm r .lsl 0#5)), ¬(8 ≤ q.val ∧ q.val ≤ 14)) ∧
      ∃ t, exec (.ldmUser .al false true false 1 0x0100#16) inIrq = .next t ∧ t.ldmUserHazard = true :=
  ⟨fun r hr => ⟨by decide, fun _ h => absurd h List.not_mem_nil, rfl,
      (show ∀ r ∈ [(8 : RegIdx), 14], ∃ q ∈ touched (.mov .al false 0 0 (.shiftImm r .lsl 0#5)),
        8 ≤ q.val ∧ q.val ≤ 14 from by decide) r hr⟩, by decide, exists_next (p := fun t => t.ldmUserHazard) (by decide)⟩

/-- A word written across the top of the address space. -/
theorem witness_MemoryWriteBytes :
    (2#32 ∉ bytesFrom 0xFFFFFFFE#32 4) ∧ (0xFFFFFFFD#32 ∉ bytesFrom 0xFFFFFFFE#32 4) ∧ (1#32 ∉ bytesFrom 0xFFFFFFFF#32 2) ∧
      Memory.wf (writeBytes [] 0xFFFFFFFE#32 (wordBytes 0x11223344#32)) = true := by decide

/-- Pairs of views that share a register and pairs that do not. -/
theorem witness_RegisterViews :
    (14 : RegIdx) ≠ 15 ∧ view .sys 14 = view .usr 14 ∧ view .svc 14 ≠ view .usr 14 ∧ view .svc 12 = view .irq 12 ∧
      view .fiq 8 ≠ view .usr 8 ∧ view .fiq 7 = view .usr 7 := by decide

/-- A register set is read back. -/
theorem reg_three (v : Word) : readReg (reg 3 v start) 3 = v := rfl

/-- The amounts where the clauses of a shift by register meet: 0 (and 256), 1, 31, 32, 33, 64 and 255. -/
theorem witness_RegisterShiftOperand :
    (∀ v ∈ [0#32, 0x100#32], (readReg (reg 3 v start) 3).toNat % 256 = 0) ∧
      ∀ v ∈ [1#32, 31#32, 32#32, 33#32, 64#32, 255#32], (readReg (reg 3 v start) 3).toNat % 256 ≠ 0 := by
  simp [reg_three]

theorem witness_DataProcessingResults :
    ∀ i ∈ resultForms 0 true ++ borrowForms 14 false, ∃ d, dataSpec i start = some d ∧ Runs i start ∧
      Implemented i start ∧ shiftsByPc i = false ∧ d.rd ≠ 15 := by
  intro i hi
  have h : ∀ i ∈ resultForms 0 true ++ borrowForms 14 false,
      ((dataSpec i start).any fun d => decide (d.rd ≠ 15)) = true ∧
        (condPass i.cond start.cpsr.flags && !start.ldmUserHazard) = true ∧ shiftsByPc i = false := by decide
  obtain ⟨d, hd, hr⟩ := exists_some (h i hi).1
  exact ⟨d, hd, ready_of (h i hi).2.1, .inl (by decide), (h i hi).2.2, by simpa using hr⟩

/-- The test opcodes, one with Rd = 15. -/
def testForms : List Instr :=
  [.tst .al 1 15 (.shiftImm 2 .lsl 0#5), .teq .al 1 0 (.shiftImm 2 .lsl 0#5), .cmp .al 1 0 (.shiftImm 2 .lsl 0#5),
   .cmn .al 1 0 (.shiftReg 2 .lsr 1)]

theorem witness_TestOpcodeResults :
    ∀ i ∈ testForms, ∃ f, testSpec i start = some f ∧ Runs i start ∧ Implemented i start ∧ shiftsByPc i = false := by
  intro i hi
  have h : ∀ i ∈ testForms, ((testSpec i start).any fun _ => true) = true ∧
      (condPass i.cond start.cpsr.flags && !start.ldmUserHazard) = true ∧ shiftsByPc i = false := by decide
  obtain ⟨f, hf, -⟩ := exists_some (h i hi).1
  exact ⟨f, hf, ready_of (h i hi).2.1, .inl (by decide), (h i hi).2.2⟩

/-- An aligned result of each opcode, and a misaligned one. -/
theorem witness_DataProcessingToPc :
    (∀ i ∈ resultForms 15 false, ∃ s d, dataSpec i s = some d ∧ d.rd = 15 ∧ d.sf = false ∧ Runs i s ∧ Implemented i s ∧
      shiftsByPc i = false ∧ d.value.extractLsb' 0 2 = 0#2) ∧
    (∀ i ∈ borrowForms 15 false, ∃ s d, dataSpec i s = some d ∧ d.rd = 15 ∧ d.sf = false ∧ Runs i s ∧
      Implemented i s ∧ shiftsByPc i = false ∧ d.value.extractLsb' 0 2 = 0#2) ∧
    ∃ i s d, dataSpec i s = some d ∧ d.rd = 15 ∧ d.sf = false ∧ Runs i s ∧ Implemented i s ∧ shiftsByPc i = false ∧
      d.value.extractLsb' 0 2 ≠ 0#2 := by
  refine ⟨fun i hi => ?_, fun i hi => ?_, ?_⟩
  · have h : ∀ i ∈ resultForms 15 false,
        ((dataSpec i start).any fun d => decide (d.rd = 15 ∧ d.sf = false ∧ d.value.extractLsb' 0 2 = 0#2)) = true ∧
          (condPass i.cond start.cpsr.flags && !start.ldmUserHazard) = true ∧ shiftsByPc i = false := by decide
    obtain ⟨d, hd, hp⟩ := exists_some (h i hi).1
    have hp := of_decide_eq_true hp
    exact ⟨start, d, hd, hp.1, hp.2.1, ready_of (h i hi).2.1, .inl (by decide), (h i hi).2.2, hp.2.2⟩
  · have h : ∀ i ∈ borrowForms 15 false,
        ((dataSpec i startCarry).any fun d => decide (d.rd = 15 ∧ d.sf = false ∧ d.value.extractLsb' 0 2 = 0#2)) = true ∧
          (condPass i.cond startCarry.cpsr.flags && !startCarry.ldmUserHazard) = true ∧ shiftsByPc i = false := by decide
    obtain ⟨d, hd, hp⟩ := exists_some (h i hi).1
    have hp := of_decide_eq_true hp
    exact ⟨startCarry, d, hd, hp.1, hp.2.1, ready_of (h i hi).2.1, .inl (by decide), (h i hi).2.2, hp.2.2⟩
  · exact ⟨.add .al false 1 15 (.imm 0#4 2#8), start, _, rfl, by decide, by decide, ready_of (by decide), .inl (by decide),
      by decide, by decide⟩

/-- The return form with a register-specified shift, for each opcode. -/
def shiftReturnForms : List Instr :=
  [.and .al true 1 15 (.shiftReg 2 .lsl 2), .eor .al true 1 15 (.shiftReg 2 .lsl 2), .sub .al true 1 15 (.shiftReg 2 .lsl 2),
   .rsb .al true 1 15 (.shiftReg 2 .lsl 2), .add .al true 1 15 (.shiftReg 2 .lsl 2), .adc .al true 1 15 (.shiftReg 2 .lsl 2),
   .sbc .al true 1 15 (.shiftReg 2 .lsl 2), .rsc .al true 1 15 (.shiftReg 2 .lsl 2), .orr .al true 1 15 (.shiftReg 2 .lsl 2),
   .mov .al true 0 15 (.shiftReg 2 .lsl 2), .bic .al true 1 15 (.shiftReg 2 .lsl 2), .mvn .al true 0 15 (.shiftReg 2 .lsl 2)]

theorem witness_DataProcessingReturn_shift :
    ∀ i ∈ shiftReturnForms, ∃ d p, dataSpec i inIrq = some d ∧ d.rd = 15 ∧ d.sf = true ∧ Runs i inIrq ∧
      inIrq.armCompletion = true ∧ spsrOf inIrq.cpsr.mode inIrq = some p ∧ shiftsByPc i = true := by
  intro i hi
  have h : ∀ i ∈ shiftReturnForms, ((dataSpec i inIrq).any fun d => decide (d.rd = 15 ∧ d.sf = true)) = true ∧
      (condPass i.cond inIrq.cpsr.flags && !inIrq.ldmUserHazard) = true ∧ shiftsByPc i = true := by decide
  obtain ⟨d, hd, hp⟩ := exists_some (h i hi).1
  have hp := of_decide_eq_true hp
  exact ⟨d, _, hd, hp.1, hp.2, ready_of (h i hi).2.1, by decide, rfl, (h i hi).2.2⟩

/-- Each of the five outcomes of the return form without a register-specified shift; the last for each opcode. -/
theorem witness_DataProcessingReturn :
    let i := Instr.mov .al true 0 15 (.shiftImm 1 .lsl 0#5)
    (Runs i normative ∧ shiftsByPc i = false ∧ normative.armCompletion = false ∧ unimplementedAs i = none) ∧
    (Runs i start ∧ start.armCompletion = true ∧ spsrOf (inMode .sys start).cpsr.mode (inMode .sys start) = none) ∧
    (∃ p, spsrOf .svc start = some p ∧ modeOf (p.control.extractLsb' 0 5) = none) ∧
    (∃ p d, dataSpec (.mov .al true 0 15 (.imm 0#4 2#8)) inIrq = some d ∧ d.rd = 15 ∧ d.sf = true ∧
      spsrOf .irq inIrq = some p ∧ modeOf (p.control.extractLsb' 0 5) ≠ none ∧ p.control.getLsbD 5 = false ∧
      d.value.extractLsb' 0 2 ≠ 0#2) ∧
    ∀ i ∈ resultForms 15 true ++ borrowForms 15 true, ∃ d p, dataSpec i inIrqFromThumb = some d ∧ d.rd = 15 ∧
      d.sf = true ∧ Runs i inIrqFromThumb ∧ shiftsByPc i = false ∧
      spsrOf inIrqFromThumb.cpsr.mode inIrqFromThumb = some p ∧ modeOf (p.control.extractLsb' 0 5) ≠ none ∧
      p.control.getLsbD 5 = true := by
  refine ⟨⟨ready_of (by decide), by decide, by decide, by decide⟩, ⟨ready_of (by decide), by decide, by decide⟩,
    ⟨_, rfl, by decide⟩, ⟨_, _, rfl, by decide, by decide, rfl, by decide, by decide, by decide⟩, fun i hi => ?_⟩
  have h : ∀ i ∈ resultForms 15 true ++ borrowForms 15 true,
      ((dataSpec i inIrqFromThumb).any fun d => decide (d.rd = 15 ∧ d.sf = true)) = true ∧
        (condPass i.cond inIrqFromThumb.cpsr.flags && !inIrqFromThumb.ldmUserHazard) = true ∧
          shiftsByPc i = false := by decide
  obtain ⟨d, hd, hp⟩ := exists_some (h i hi).1
  have hp := of_decide_eq_true hp
  exact ⟨d, _, hd, hp.1, hp.2, ready_of (h i hi).2.1, (h i hi).2.2, rfl, by decide, by decide⟩

/-- One instruction of each class left unimplemented. -/
def unimplementedForms : List Instr :=
  [.umull .al false 1 0 3 2, .umlal .al true 1 0 3 2, .smull .al false 1 0 3 2, .smlal .al false 1 0 3 2, .swp .al 2 0 1,
   .swpb .al 2 0 1, .ldrsh .al true true false 1 0 (.imm 0#8), .rsb .al false 1 0 (.imm 0#4 0#8),
   .adc .al false 1 0 (.imm 0#4 0#8), .sbc .al false 1 0 (.imm 0#4 0#8), .rsc .al false 1 0 (.imm 0#4 0#8),
   .teq .al 1 0 (.imm 0#4 0#8), .cmn .al 1 0 (.imm 0#4 0#8), .bic .al false 1 0 (.imm 0#4 0#8),
   .mvn .al false 0 0 (.imm 0#4 0#8), .swi .al 5#24, .ldc .al true true false false 0 0#4 1#4 0#8,
   .stc .al true true false false 0 0#4 1#4 0#8, .cdp .al 0#4 0#4 0#4 1#4 0#3 0#4, .mcr .al 0#3 1#4 0 15#4 0#3 0#4,
   .mrc .al 0#3 0#4 0 15#4 0#3 0#4, .fallback .al]

/-- The undefined encodings. -/
def undefinedForms : List Instr :=
  [.undefHalfword .al true true false true true 0 0 0#4 0#4, .undefSignedStore .al true true true false false 0 0 0#4 0#4,
   .undefGap .al 0#20 0#4, .undefTest .al false 0#2 0 0 0x081#12]

/-- R15 in a register-specified shift, in each position. -/
def pcShiftForms : List Instr :=
  [.mov .al false 0 0 (.shiftReg 15 .lsl 1), .mov .al false 0 0 (.shiftReg 1 .lsl 15), .and .al false 15 0 (.shiftReg 1 .lsl 2),
   .add .al false 1 15 (.shiftReg 1 .lsl 2), .cmp .al 15 0 (.shiftReg 1 .lsl 2), .mov .al false 15 0 (.shiftReg 1 .lsl 2),
   .mvn .al true 15 0 (.shiftReg 1 .lsl 2)]

theorem witness_ClassesLeftToCompletion :
    (∀ i ∈ unimplementedForms, Runs i normative ∧ normative.armCompletion = false ∧ unimplementedAs i ≠ none) ∧
    (∀ i ∈ undefinedForms, Runs i normative ∧ normative.armCompletion = false ∧ undefinedAs i ≠ none) ∧
    (∀ i ∈ [Instr.mov .al true 0 15 (.shiftImm 1 .lsl 0#5), .ldmRet .al false true true 13 0x8001#16,
        .ldmUser .al false true false 0 0#16],
      Runs i normative ∧ returnsFromException i normative = true ∧ unimplementedAs i = none) ∧
    ∀ i ∈ pcShiftForms, Runs i start ∧ Implemented i start ∧ shiftsByPc i = true ∧
      returnsFromException i start = false :=
  ⟨fun i hi => ⟨ready_all (by decide) rfl i hi, by decide,
      (show ∀ i ∈ unimplementedForms, unimplementedAs i ≠ none from by decide) i hi⟩,
    fun i hi => ⟨ready_all (by decide) rfl i hi, by decide,
      (show ∀ i ∈ undefinedForms, undefinedAs i ≠ none from by decide) i hi⟩,
    fun i hi => by
      simp only [List.mem_cons, List.not_mem_nil, or_false] at hi
      rcases hi with rfl | rfl | rfl <;> exact ⟨ready_of (by decide), by decide, by decide⟩,
    fun i hi => ⟨ready_all (by decide) rfl i hi, .inl (by decide),
      (show ∀ i ∈ pcShiftForms, shiftsByPc i = true ∧ returnsFromException i start = false from by decide) i hi⟩⟩

theorem witness_MultiplyResults :
    (0 : RegIdx) ≠ 15 ∧ (1 : RegIdx) ≠ 15 ∧ (2 : RegIdx) ≠ 15 ∧ (4 : RegIdx) ≠ 15 ∧
      Runs (.mul .al true 0 0 2 1) start ∧ Runs (.mla .al true 0 4 2 1) start :=
  ⟨by decide, by decide, by decide, by decide, ready_of (by decide), ready_of (by decide)⟩

/-- An aligned result and a misaligned one, for MUL (R1 = 0x1000 by R2, 1 by 3) and MLA (plus 4, plus 2). -/
theorem witness_MultiplyResults_pc :
    Runs (.mul .al true 15 0 2 1) start ∧ Runs (.mla .al true 15 2 2 1) start ∧
      (BitVec.ofNat 32 ((readReg start 1).toNat * (readReg start 2).toNat)).extractLsb' 0 2 = 0#2 ∧
      (BitVec.ofNat 32 ((readReg start 1).toNat * (readReg start 2).toNat + (readReg start 2).toNat)).extractLsb' 0 2 =
        0#2 ∧
      (BitVec.ofNat 32 ((readReg (reg 3 3#32 start) 3).toNat * (readReg (reg 3 3#32 start) 3).toNat)).extractLsb' 0 2 ≠
        0#2 :=
  ⟨ready_of (by decide), ready_of (by decide), by decide, by decide, by decide⟩

/-- The long multiplies. -/
def longForms (hi lo rm : RegIdx) : List Instr :=
  [.umull .al true hi lo 3 rm, .umlal .al true hi lo 3 rm, .smull .al false hi lo 3 rm, .smlal .al true hi lo 3 rm]

theorem witness_LongMultiplyResults :
    ∀ i ∈ longForms 1 0 2, ∃ l, longSpec i start = some l ∧ Runs i start ∧ start.armCompletion = true ∧ l.Legal := by
  intro i hi
  have h : ∀ i ∈ longForms 1 0 2, ((longSpec i start).any fun l =>
      decide ((15 : RegIdx) ∉ [l.hi, l.lo, l.rm, l.rs] ∧ l.hi ≠ l.lo ∧ l.hi ≠ l.rm ∧ l.lo ≠ l.rm)) = true ∧
        (condPass i.cond start.cpsr.flags && !start.ldmUserHazard) = true := by decide
  obtain ⟨l, hl, hp⟩ := exists_some (h i hi).1
  have hp := of_decide_eq_true hp
  exact ⟨l, hl, ready_of (h i hi).2, by decide, ⟨hp.1, hp.2.1, hp.2.2.1, hp.2.2.2⟩⟩

/-- Each illegal operand: R15, RdHi = RdLo, RdHi = Rm, RdLo = Rm. -/
theorem witness_MultiplyFaults :
    Runs (.mul .al false 0 0 2 15) start ∧ Runs (.mul .al false 0 0 15 1) start ∧ Runs (.mla .al false 0 15 2 1) start ∧
      ∀ i ∈ longForms 15 0 2 ++ longForms 1 1 2 ++ longForms 2 0 2 ++ longForms 1 2 2,
        ∃ l, longSpec i start = some l ∧ Runs i start ∧ ¬l.Legal := by
  refine ⟨ready_of (by decide), ready_of (by decide), ready_of (by decide), fun i hi => ?_⟩
  have h : ∀ i ∈ longForms 15 0 2 ++ longForms 1 1 2 ++ longForms 2 0 2 ++ longForms 1 2 2,
      ((longSpec i start).any fun l =>
        decide (15 ∈ [l.hi, l.lo, l.rm, l.rs] ∨ l.hi = l.lo ∨ l.hi = l.rm ∨ l.lo = l.rm)) = true ∧
        (condPass i.cond start.cpsr.flags && !start.ldmUserHazard) = true := by decide
  obtain ⟨l, hl, hp⟩ := exists_some (h i hi).1
  have hp := of_decide_eq_true hp
  refine ⟨l, hl, ready_of (h i hi).2, fun legal => ?_⟩
  rcases hp with hp | hp | hp | hp
  · exact legal.pc hp
  · exact legal.hiLo hp
  · exact legal.hiRm hp
  · exact legal.loRm hp

theorem witness_MrsResults :
    Runs (.mrs .al .cpsr 14) start ∧ (14 : RegIdx) ≠ 15 ∧
      (∃ p, spsrOf inIrq.cpsr.mode inIrq = some p ∧ Runs (.mrs .al .spsr 0) inIrq) ∧
      spsrOf (inMode .usr start).cpsr.mode (inMode .usr start) = none ∧ Runs (.mrs .al .spsr 0) (inMode .usr start) :=
  ⟨ready_of (by decide), by decide, ⟨_, rfl, ready_of (by decide)⟩, by decide, ready_of (by decide)⟩

theorem witness_MrsToPc :
    Runs (.mrs .al .cpsr 15) (inMode .usr start) ∧ (inMode .usr start).cpsr.mode = .usr ∧
      Runs (.mrs .al .cpsr 15) start ∧ start.cpsr.mode ≠ .usr ∧
      (∃ p, spsrOf inIrq.cpsr.mode inIrq = some p ∧ Runs (.mrs .al .spsr 15) inIrq ∧
        p.control.extractLsb' 0 2 = 0#2) ∧
      ∃ p, spsrOf .irq (spsr .irq 0#4 0x1F#8 inIrq) = some p ∧ p.control.extractLsb' 0 2 ≠ 0#2 :=
  ⟨ready_of (by decide), by decide, ready_of (by decide), by decide, ⟨_, rfl, ready_of (by decide), by decide⟩,
    ⟨_, rfl, by decide⟩⟩

/-- Field c in a privileged mode with a value that passes the checks, field c in User mode with one that would not. -/
theorem witness_MsrWritesCpsr :
    (msrSpec (.msrImm .al .cpsr ⟨true, true⟩ 0#2 0#4 0x1F#8) start = some (.cpsr, true, true, 0x1F#32) ∧
      Runs (.msrImm .al .cpsr ⟨true, true⟩ 0#2 0#4 0x1F#8) start ∧ start.cpsr.mode ≠ .usr ∧
      (0x1F#32).getLsbD 5 = start.cpsr.t ∧ modeOf ((0x1F#32).extractLsb' 0 5) ≠ none) ∧
    msrSpec (.msrReg .al .cpsr ⟨false, true⟩ 0#2 2) (inMode .usr start) = some (.cpsr, false, true, 4#32) ∧
      Runs (.msrReg .al .cpsr ⟨false, true⟩ 0#2 2) (inMode .usr start) ∧ (inMode .usr start).cpsr.mode = .usr :=
  ⟨⟨by decide, ready_of (by decide), by decide, by decide, by decide⟩, by decide, ready_of (by decide), by decide⟩

theorem witness_MsrWritesSpsr :
    msrSpec (.msrReg .al .spsr ⟨true, true⟩ 0#2 1) inIrq = some (.spsr, true, true, 0x1000#32) ∧
      Runs (.msrReg .al .spsr ⟨true, true⟩ 0#2 1) inIrq ∧ (∃ p, spsrOf inIrq.cpsr.mode inIrq = some p) ∧
      msrSpec (.msrReg .al .spsr ⟨true, true⟩ 0#2 1) (inMode .sys start) = some (.spsr, true, true, 0x1000#32) ∧
      spsrOf (inMode .sys start).cpsr.mode (inMode .sys start) = none ∧
      Runs (.msrReg .al .spsr ⟨true, true⟩ 0#2 1) (inMode .sys start) :=
  ⟨by decide, ready_of (by decide), ⟨_, rfl⟩, by decide, by decide, ready_of (by decide)⟩

/-- R15 as the source in a mode with an SPSR and in System mode, T set in the operand (0x33), mode bits that are no mode (0x14). -/
theorem witness_MsrFaults :
    Runs (.msrReg .al .cpsr ⟨true, true⟩ 0#2 15) start ∧ Runs (.msrReg .al .spsr ⟨true, true⟩ 0#2 15) inIrq ∧
      spsrOf inIrq.cpsr.mode inIrq ≠ none ∧ Runs (.msrReg .al .spsr ⟨true, true⟩ 0#2 15) (inMode .sys start) ∧
      spsrOf (inMode .sys start).cpsr.mode (inMode .sys start) = none ∧
      msrSpec (.msrImm .al .cpsr ⟨false, true⟩ 0#2 0#4 0x33#8) start = some (.cpsr, false, true, 0x33#32) ∧
      (0x33#32).getLsbD 5 ≠ start.cpsr.t ∧
      msrSpec (.msrImm .al .cpsr ⟨false, true⟩ 0#2 0#4 0x14#8) start = some (.cpsr, false, true, 0x14#32) ∧
      modeOf ((0x14#32).extractLsb' 0 5) = none ∧ Runs (.msrImm .al .cpsr ⟨false, true⟩ 0#2 0#4 0x14#8) start ∧
      Runs (.msrImm .al .cpsr ⟨false, true⟩ 0#2 0#4 0x33#8) start :=
  ⟨ready_of (by decide), ready_of (by decide), by decide, ready_of (by decide), by decide, by decide, by decide, by decide,
    by decide, ready_of (by decide), ready_of (by decide)⟩

theorem witness_MsrThenMrsRoundTrip :
    (∃ t, msrSpec (.msrImm .al .cpsr ⟨true, true⟩ 0#2 0#4 0x1F#8) start = some (.cpsr, true, true, 0x1F#32) ∧
      Runs (.msrImm .al .cpsr ⟨true, true⟩ 0#2 0#4 0x1F#8) start ∧
      exec (.msrImm .al .cpsr ⟨true, true⟩ 0#2 0#4 0x1F#8) start = .next t ∧ Written (.mrs .al .cpsr 0) t) ∧
    ∃ t, msrSpec (.msrReg .al .spsr ⟨true, true⟩ 0#2 1) inIrq = some (.spsr, true, true, 0x1000#32) ∧
      Runs (.msrReg .al .spsr ⟨true, true⟩ 0#2 1) inIrq ∧ exec (.msrReg .al .spsr ⟨true, true⟩ 0#2 1) inIrq = .next t ∧
      Written (.mrs .al .spsr 0) t := by
  obtain ⟨t, h, ht⟩ := exists_next (r := exec (.msrImm .al .cpsr ⟨true, true⟩ 0#2 0#4 0x1F#8) start)
    (p := fun t => t.unwritten == []) (by decide)
  obtain ⟨u, k, hu⟩ := exists_next (r := exec (.msrReg .al .spsr ⟨true, true⟩ 0#2 1) inIrq)
    (p := fun t => t.unwritten == []) (by decide)
  exact ⟨⟨t, by decide, ready_of (by decide), h, by simp [Written, beq_iff_eq.mp ht]⟩,
    ⟨u, by decide, ready_of (by decide), k, by simp [Written, beq_iff_eq.mp hu]⟩⟩

theorem witness_BranchResults :
    start.pc.extractLsb' 0 2 = 0#2 ∧ Runs (.b .al 0x800000#24) start ∧ Runs (.bl .al 0x7FFFFF#24) start :=
  ⟨by decide, ready_of (by decide), ready_of (by decide)⟩

/-- Targets with low bits 01 and 11, 00 and 10. -/
theorem witness_BranchExchangeResults :
    (∀ v ∈ [0x205#32, 0x207#32], (readReg (reg 3 v start) 3).getLsbD 0 = true) ∧
      (readReg (reg 3 0x204#32 start) 3).extractLsb' 0 2 = 0b00#2 ∧
      (readReg (reg 3 0x206#32 start) 3).extractLsb' 0 2 = 0b10#2 ∧
      ∀ v ∈ [0x204#32, 0x205#32, 0x206#32, 0x207#32], Runs (.bx .al 3) (reg 3 v start) := by
  simp only [reg_three]
  exact ⟨by simp, by decide, by decide, fun v _ => ready_of (i := .bx .al 3) (s := reg 3 v start) rfl⟩

/-- No byte of the list is prefetched. -/
def clear (pc : Word) (bytes : List Word) : Bool := bytes.all fun a => decide (8 ≤ (a - (pc + 4#32)).toNat)

theorem clear_of {pc : Word} {bytes : List Word} (h : clear pc bytes = true) : ClearOfPrefetch pc bytes :=
  fun a ha => of_decide_eq_true (List.all_eq_true.mp h a ha)

/-- A byte of the list stands at a distance from the first prefetched byte. -/
def distance (pc : Word) (bytes : List Word) (p : Nat → Bool) : Bool := bytes.any fun y => p (y - (pc + 4#32)).toNat

theorem exists_distance {pc : Word} {bytes : List Word} {p : Nat → Bool} (h : distance pc bytes p = true) :
    ∃ y ∈ bytes, p (y - (pc + 4#32)).toNat = true := List.any_eq_true.mp h

/-- The loads, each with writeback, into a register. -/
def loadForms (rd : RegIdx) : List Instr :=
  [.ldr .al true true true 1 rd (.imm 0#12), .ldrb .al false true false 1 rd (.imm 1#12), .ldrt .al true 1 rd (.imm 4#12),
   .ldrbt .al true 1 rd (.reg 2 .lsl 0#5), .ldrh .al true true false 1 rd (.imm 0#8),
   .ldrsb .al true true true 1 rd (.imm 0#8), .ldrsh .al true false true 1 rd (.imm 0#8)]

/-- The stores to 0x1000, each with writeback. -/
def storeForms (rd : RegIdx) : List Instr :=
  [.str .al true true true 1 rd (.imm 0#12), .strb .al false true false 1 rd (.imm 1#12), .strt .al true 1 rd (.imm 4#12),
   .strbt .al true 1 rd (.reg 2 .lsl 0#5), .strh .al true true true 1 rd (.imm 0#8)]

theorem witness_LoadResults :
    ∀ i ∈ loadForms 0, ∃ x data, loadSpec i start = some (x, data) ∧ Runs i start ∧ Implemented i start ∧ x.Legal ∧
      x.rd ≠ 15 := by
  intro i hi
  have h : ∀ i ∈ loadForms 0, ((loadSpec i start).any fun y =>
      decide ((15 : RegIdx) ∉ y.1.off ∧ (y.1.ix.wb = true → y.1.rn ≠ 15) ∧ y.1.rd ≠ 15)) = true := by decide
  obtain ⟨⟨x, data⟩, hx, hp⟩ := exists_some (h i hi)
  have hp := of_decide_eq_true hp
  exact ⟨x, data, hx, ready_all (L := loadForms 0) (by decide) rfl i hi, .inl (by decide), ⟨hp.1, hp.2.1⟩, hp.2.2⟩

/-- Memory at R1 holds 0x104: the word, the byte and the halfword there are aligned addresses; at 0x1001 the byte is 1. -/
theorem witness_LoadResults_pc :
    (∀ i ∈ loadForms 15, ∃ x data, loadSpec i start = some (x, data) ∧ Runs i start ∧ Implemented i start ∧ x.Legal ∧
      x.rd = 15 ∧ data.extractLsb' 0 2 = 0#2) ∧
    ∃ x data, loadSpec (.ldrb .al true true false 1 15 (.imm 1#12)) start = some (x, data) ∧ x.Legal ∧ x.rd = 15 ∧
      data.extractLsb' 0 2 ≠ 0#2 := by
  refine ⟨fun i hi => ?_, ⟨_, _, rfl, ⟨by decide, by decide⟩, by decide, by decide⟩⟩
  have h : ∀ i ∈ loadForms 15, ((loadSpec i start).any fun y =>
      decide ((15 : RegIdx) ∉ y.1.off ∧ (y.1.ix.wb = true → y.1.rn ≠ 15) ∧ y.1.rd = 15 ∧
        y.2.extractLsb' 0 2 = 0#2)) = true := by decide
  obtain ⟨⟨x, data⟩, hx, hp⟩ := exists_some (h i hi)
  have hp := of_decide_eq_true hp
  exact ⟨x, data, hx, ready_all (L := loadForms 15) (by decide) rfl i hi, .inl (by decide), ⟨hp.1, hp.2.1⟩, hp.2.2⟩

/-- A store of an ordinary register and one of R15. -/
theorem witness_StoreResults :
    ∀ i ∈ storeForms 0 ++ storeForms 15, ∃ x a n, storeSpec i start = some (x, a, n) ∧ Runs i start ∧ x.Legal ∧
      ClearOfPrefetch start.pc (bytesFrom a n) := by
  intro i hi
  have h : ∀ i ∈ storeForms 0 ++ storeForms 15, ((storeSpec i start).any fun y =>
      decide ((15 : RegIdx) ∉ y.1.off ∧ (y.1.ix.wb = true → y.1.rn ≠ 15) ∧
        clear start.pc (bytesFrom y.2.1 y.2.2) = true)) = true := by decide
  obtain ⟨⟨x, a, n⟩, hx, hp⟩ := exists_some (h i hi)
  have hp := of_decide_eq_true hp
  exact ⟨x, a, n, hx, ready_all (L := storeForms 0 ++ storeForms 15) (by decide) rfl i hi, ⟨hp.1, hp.2.1⟩,
    clear_of hp.2.2⟩

/-- The stores of a block of the current bank. -/
def stmForms (wback : Bool) (rn : RegIdx) (list : BitVec 16) : List Instr :=
  [.stmia .al wback rn list, .stmib .al wback rn list, .stmda .al wback rn list, .stmdb .al wback rn list]

/-- The loads of a block of the current bank. -/
def ldmForms (wback : Bool) (rn : RegIdx) (list : BitVec 16) : List Instr :=
  [.ldmia .al wback rn list, .ldmib .al wback rn list, .ldmda .al wback rn list, .ldmdb .al wback rn list]

/-- The first and the last byte of the window, reached by the last byte and by the first byte of a store, and each kind
of store in it. -/
theorem witness_StoreIntoPrefetchedWords :
    (∃ x a n, storeSpec (.strh .al true true false 3 0 (.imm 0#8)) (reg 3 4#32 start) = some (x, a, n) ∧ x.Legal ∧
      ∃ y ∈ bytesFrom a n, decide ((y - (start.pc + 4#32)).toNat = 0) = true) ∧
    (∃ x a n, storeSpec (.strb .al true true false 3 0 (.imm 7#12)) (reg 3 4#32 start) = some (x, a, n) ∧ x.Legal ∧
      ∃ y ∈ bytesFrom a n, decide ((y - (start.pc + 4#32)).toNat = 7) = true) ∧
    (∀ y ∈ [(stmForms false 3 0x0007#16).take 3, (stmForms false 3 0x0007#16).drop 3].zip [4#32, 12#32],
      ∀ i ∈ y.1, Runs i (reg 3 y.2 start) ∧ ∃ b, stmSpec i = some b ∧ b.rn ≠ 15 ∧
        ∃ z ∈ slotBytes (b.start (reg 3 y.2 start)) b.list, decide ((z - (start.pc + 4#32)).toNat < 8) = true) ∧
    (spsrOf .irq inIrq ≠ none ∧ ∃ y ∈ slotBytes (blockStart false true 4#32 (listSpan 1#16)) 1#16,
      decide ((y - (inIrq.pc + 4#32)).toNat < 8) = true) ∧
    ∃ y ∈ bytesFrom (alignWord 11#32) 4, decide ((y - (start.pc + 4#32)).toNat < 8) = true := by
  refine ⟨⟨_, _, _, rfl, ⟨by decide, by decide⟩, exists_distance (p := fun d => decide (d = 0)) (by decide)⟩,
    ⟨_, _, _, rfl, ⟨by decide, by decide⟩, exists_distance (p := fun d => decide (d = 7)) (by decide)⟩,
    fun y hy i hi => ?_, ⟨by decide, exists_distance (p := fun d => decide (d < 8)) (by decide)⟩,
    exists_distance (p := fun d => decide (d < 8)) (by decide)⟩
  have h : ∀ i ∈ y.1, ((stmSpec i).any fun b => decide (b.rn ≠ 15 ∧
      distance start.pc (slotBytes (b.start (reg 3 y.2 start)) b.list) (fun d => decide (d < 8)) = true)) = true := by
    simp only [List.zip_cons_cons, List.zip_nil_right, List.mem_cons, List.not_mem_nil, or_false] at hy
    rcases hy with rfl | rfl <;> decide
  have hr : ∀ i ∈ y.1, Runs i (reg 3 y.2 start) := by
    simp only [List.zip_cons_cons, List.zip_nil_right, List.mem_cons, List.not_mem_nil, or_false] at hy
    rcases hy with rfl | rfl <;> exact ready_all (by decide)
  obtain ⟨b, hb, hp⟩ := exists_some (h i hi)
  have hp := of_decide_eq_true hp
  exact ⟨hr i hi, b, hb, hp.1, exists_distance hp.2⟩

/-- Rd = Rm, the case that exchanges a register with memory. -/
theorem witness_SwapResults :
    start.armCompletion = true ∧ (0 : RegIdx) ≠ 15 ∧ (1 : RegIdx) ≠ 15 ∧ (1 : RegIdx) ≠ 0 ∧ Runs (.swp .al 1 0 0) start ∧
      ClearOfPrefetch start.pc (bytesFrom (alignWord (readReg start 1)) 4) ∧ Runs (.swpb .al 1 0 0) start ∧
      ClearOfPrefetch start.pc [readReg start 1] :=
  ⟨by decide, by decide, by decide, by decide, ready_of (by decide),
    clear_of (by decide),
    ready_of (by decide), clear_of (by decide)⟩

/-- R15 as offset, writeback to R15 (load and store), the swap's registers, and Rn, W and the mode of the block forms, and
Rn of the return forms. -/
theorem witness_TransferRegisterFaults :
    (∃ x d, loadSpec (.ldrh .al true true false 1 0 (.reg 15)) start = some (x, d) ∧ 15 ∈ x.off) ∧
    (∃ x a n, storeSpec (.str .al false true false 15 0 (.imm 4#12)) start = some (x, a, n) ∧ x.ix.wb = true ∧
      x.rn = 15) ∧
    (∀ i ∈ [Instr.swp .al 1 1 0, .swpb .al 1 0 1, .swp .al 15 0 1], Runs i start) ∧
    (∀ i ∈ ldmForms false 15 1#16 ++ stmForms true 15 1#16, Runs i start ∧
      ∃ b, (ldmSpec i = some b ∨ stmSpec i = some b) ∧ b.rn = 15) ∧
    (∀ i ∈ [Instr.ldmUser .al false true true 1 0x0100#16, .stmUser .al false true false 15 1#16], Runs i inIrq) ∧
      Runs (.ldmUser .al false true false 1 0x0100#16) (inMode .sys start) ∧
      spsrOf (inMode .sys start).cpsr.mode (inMode .sys start) = none ∧
    (∃ b c, ldmReturnSpec (.ldmRet .al false true true 15 0x8001#16) = some b ∧ b.rn = 15 ∧
      ldmReturnSpec (.ldmUser .al false true false 15 0#16) = some c ∧ c.rn = 15 ∧
      Runs (.ldmRet .al false true true 15 0x8001#16) inIrq ∧ Runs (.ldmUser .al false true false 15 0#16) inIrq) ∧
      inIrq.armCompletion = true ∧ spsrOf inIrq.cpsr.mode inIrq ≠ none := by
  refine ⟨⟨_, _, rfl, by decide⟩, ⟨_, _, _, rfl, by decide, by decide⟩, ready_all (by decide), fun i hi => ⟨?_, ?_⟩,
    ready_all (by decide), ready_of (by decide), by decide,
    ⟨_, _, rfl, rfl, rfl, rfl, ready_of (by decide), ready_of (by decide)⟩, by decide, by decide⟩
  · exact ready_all (L := ldmForms false 15 1#16 ++ stmForms true 15 1#16) (by decide) rfl i hi
  · simp only [ldmForms, stmForms, List.cons_append, List.nil_append, List.mem_cons, List.not_mem_nil, or_false] at hi
    rcases hi with rfl | rfl | rfl | rfl | rfl | rfl | rfl | rfl
    · exact ⟨_, .inl rfl, rfl⟩
    · exact ⟨_, .inl rfl, rfl⟩
    · exact ⟨_, .inl rfl, rfl⟩
    · exact ⟨_, .inl rfl, rfl⟩
    · exact ⟨_, .inr rfl, rfl⟩
    · exact ⟨_, .inr rfl, rfl⟩
    · exact ⟨_, .inr rfl, rfl⟩
    · exact ⟨_, .inr rfl, rfl⟩

/-- The empty list, one register, and all sixteen. -/
theorem witness_BlockListsAndAddresses :
    (1#16 : BitVec 16) ≠ 0#16 ∧ (0xFFFF#16 : BitVec 16) ≠ 0#16 ∧ (0#16 : BitVec 16) = 0#16 ∧
      (listRegs 0xFFFF#16).length = 16 := by decide

theorem witness_LdmResults :
    ∀ i ∈ ldmForms true 1 0x4006#16, ∃ b, ldmSpec i = some b ∧ Runs i start ∧ b.rn ≠ 15 ∧ b.list ≠ 0#16 ∧
      b.list.getLsbD 15 = false := by
  intro i hi
  have h : ∀ i ∈ ldmForms true 1 0x4006#16, ((ldmSpec i).any fun b =>
      decide (b.rn ≠ 15 ∧ b.list ≠ 0#16 ∧ b.list.getLsbD 15 = false)) = true := by decide
  obtain ⟨b, hb, hp⟩ := exists_some (h i hi)
  exact ⟨b, hb, ready_all (L := ldmForms true 1 0x4006#16) (by decide) rfl i hi, of_decide_eq_true hp⟩

/-- The empty list and a list with R15; the last word is 0x104 at R1 and 0 elsewhere, and 0x102 in one more state. -/
theorem witness_LdmToPc :
    (∀ i ∈ ldmForms true 1 0#16 ++ ldmForms false 1 0x8004#16, ∃ b, ldmSpec i = some b ∧ Runs i start ∧ b.rn ≠ 15 ∧
      (b.list = 0#16 ∨ b.list.getLsbD 15 = true) ∧
      (readWord start.mem (blockSlot (b.start start) ((listRegs b.list).length - 1))).extractLsb' 0 2 = 0#2) ∧
    (readWord (word 0x1000#32 0x102#32 start).mem (blockSlot 0x1000#32 0)).extractLsb' 0 2 ≠ 0#2 := by
  refine ⟨fun i hi => ?_, by decide⟩
  have h : ∀ i ∈ ldmForms true 1 0#16 ++ ldmForms false 1 0x8004#16, ((ldmSpec i).any fun b =>
      decide (b.rn ≠ 15 ∧ (b.list = 0#16 ∨ b.list.getLsbD 15 = true) ∧
        (readWord start.mem (blockSlot (b.start start) ((listRegs b.list).length - 1))).extractLsb' 0 2 = 0#2)) =
      true := by decide
  obtain ⟨b, hb, hp⟩ := exists_some (h i hi)
  exact ⟨b, hb, ready_all (L := ldmForms true 1 0#16 ++ ldmForms false 1 0x8004#16) (by decide) rfl i hi,
    of_decide_eq_true hp⟩

/-- Lists with R15 and with the base in them, and the empty list. -/
theorem witness_StmResults :
    ∀ i ∈ stmForms true 1 0x8003#16 ++ stmForms false 1 0#16, ∃ b, stmSpec i = some b ∧ Runs i start ∧ b.rn ≠ 15 ∧
      ClearOfPrefetch start.pc (slotBytes (b.start start) b.list) := by
  intro i hi
  have h : ∀ i ∈ stmForms true 1 0x8003#16 ++ stmForms false 1 0#16, ((stmSpec i).any fun b =>
      decide (b.rn ≠ 15 ∧ clear start.pc (slotBytes (b.start start) b.list) = true)) = true := by
    decide
  obtain ⟨b, hb, hp⟩ := exists_some (h i hi)
  have hp := of_decide_eq_true hp
  exact ⟨b, hb, ready_all (L := stmForms true 1 0x8003#16 ++ stmForms false 1 0#16) (by decide) rfl i hi, hp.1, clear_of hp.2⟩

theorem witness_UserBankTransfers :
    (1 : RegIdx) ≠ 15 ∧ spsrOf inIrq.cpsr.mode inIrq ≠ none ∧ Runs (.ldmUser .al false true false 1 0x7F00#16) inIrq ∧
      (0x7F00#16 : BitVec 16) ≠ 0#16 ∧ (0x7F00#16).getLsbD 15 = false ∧
      Runs (.stmUser .al false true false 1 0xE000#16) inIrq ∧
      ClearOfPrefetch inIrq.pc (slotBytes (blockStart false true (readReg inIrq 1) (listSpan 0xE000#16)) 0xE000#16) :=
  ⟨by decide, by decide, ready_of (by decide), by decide, by decide, ready_of (by decide),
    clear_of (by decide)⟩

/-- A saved mode that is no mode (0x00), and a word with bits 1:0 = 10 for a saved state of ARM code. -/
theorem witness_LdmReturn_faults :
    ∀ i ∈ [Instr.ldmRet .al false true true 1 0x8000#16, .ldmUser .al false true true 1 0#16], ∃ b,
      ldmReturnSpec i = some b ∧ b.rn ≠ 15 ∧
      (Runs i (spsr .irq 0#4 0x00#8 inIrq) ∧ ∃ p, spsrOf .irq (spsr .irq 0#4 0x00#8 inIrq) = some p ∧
        modeOf (p.control.extractLsb' 0 5) = none) ∧
      Runs i (word 0x1000#32 0x106#32 inIrq) ∧ ∃ p, spsrOf .irq (word 0x1000#32 0x106#32 inIrq) = some p ∧
        modeOf (p.control.extractLsb' 0 5) ≠ none ∧ p.control.getLsbD 5 = false ∧
        (readWord (word 0x1000#32 0x106#32 inIrq).mem (blockSlot (b.start (word 0x1000#32 0x106#32 inIrq))
          ((listRegs b.list).length - 1))).extractLsb' 0 2 ≠ 0#2 := by
  intro i hi
  simp only [List.mem_cons, List.not_mem_nil, or_false] at hi
  rcases hi with rfl | rfl
  · exact ⟨_, rfl, by decide, ⟨ready_of (by decide), _, rfl, by decide⟩, ready_of (by decide), _, rfl, by decide,
      by decide, by decide⟩
  · exact ⟨_, rfl, by decide, ⟨ready_of (by decide), _, rfl, by decide⟩, ready_of (by decide), _, rfl, by decide,
      by decide, by decide⟩

/-- The other three outcomes, with R15 listed and with the empty list. -/
theorem witness_LdmReturn :
    ∀ i ∈ [Instr.ldmRet .al false true true 1 0x8000#16, .ldmUser .al false true true 1 0#16], ∃ b,
      ldmReturnSpec i = some b ∧ (b.list = 0#16 ∨ b.list.getLsbD 15 = true) ∧ b.rn ≠ 15 ∧
      (Runs i normative ∧ normative.armCompletion = false) ∧
      (Runs i (inMode .usr start) ∧ spsrOf (inMode .usr start).cpsr.mode (inMode .usr start) = none) ∧
      Runs i inIrq ∧ ∃ p, spsrOf inIrq.cpsr.mode inIrq = some p ∧ modeOf (p.control.extractLsb' 0 5) ≠ none ∧
        (readWord inIrq.mem (blockSlot (b.start inIrq) ((listRegs b.list).length - 1))).extractLsb' 0 2 = 0#2 := by
  intro i hi
  simp only [List.mem_cons, List.not_mem_nil, or_false] at hi
  rcases hi with rfl | rfl
  · exact ⟨_, rfl, by decide, by decide, ⟨ready_of (by decide), by decide⟩, ⟨ready_of (by decide), by decide⟩,
      ready_of (by decide), _, rfl, by decide, by decide⟩
  · exact ⟨_, rfl, by decide, by decide, ⟨ready_of (by decide), by decide⟩, ⟨ready_of (by decide), by decide⟩,
      ready_of (by decide), _, rfl, by decide, by decide⟩

theorem witness_SwiEntersAndReturns :
    start.armCompletion = true ∧ Runs (.swi .al 5#24) start ∧ start.cpsr.t = false ∧
      (∀ p ∈ flagParts, p ∉ start.unwritten) ∧ start.pc.extractLsb' 0 2 = 0#2 :=
  ⟨by decide, ready_of (by decide), by decide, by decide, by decide⟩

/-- Every form that takes the exception. -/
theorem witness_UndefinedInstructionEnters :
    ∀ i ∈ undefinedForms ++ unimplementedForms.drop 16, trapsUndefined i = true ∧ start.armCompletion = true ∧
      Runs i start := fun i hi =>
  ⟨(show ∀ i ∈ undefinedForms ++ unimplementedForms.drop 16, trapsUndefined i = true from by decide) i hi, by decide,
    ready_all (L := undefinedForms ++ unimplementedForms.drop 16) (by decide) rfl i hi⟩

/-- Both masks clear, and both set. -/
theorem witness_InterruptEntryAndReturn :
    ((unmasked start).armCompletion = true ∧ (unmasked start).cpsr.i = false ∧ (unmasked start).cpsr.f = false ∧
      (unmasked start).cpsr.t = false ∧ (unmasked start).pc.extractLsb' 0 2 = 0#2 ∧
      (unmasked start).ldmUserHazard = false ∧ ∀ p ∈ flagParts, p ∉ (unmasked start).unwritten) ∧
    start.armCompletion = true ∧ start.cpsr.i = true ∧ start.cpsr.f = true := by decide

/-- The mode changed by MSR, by an entry and by a return; T set by BX and by a return; an SPSR changed by MSR and by an
entry. -/
theorem witness_WhatChangesModeThumbAndSpsr :
    (∃ t, exec (.msrImm .al .cpsr ⟨false, true⟩ 0#2 0#4 0x1F#8) start = .next t ∧ (t.cpsr.mode != start.cpsr.mode) = true) ∧
    (∃ t, exec (.undefGap .al 0#20 0#4) start = .next t ∧
      (t.cpsr.mode != start.cpsr.mode && spsrOf .und t != spsrOf .und start) = true) ∧
    (∃ t, exec (.mov .al true 0 15 (.shiftImm 1 .lsl 0#5)) inIrqFromThumb = .next t ∧
      (t.cpsr.mode != inIrqFromThumb.cpsr.mode && t.cpsr.t) = true) ∧
    (∃ t, exec (.bx .al 3) (reg 3 0x205#32 start) = .next t ∧ t.cpsr.t = true) ∧
    ∃ t, exec (.msrReg .al .spsr ⟨true, true⟩ 0#2 1) inIrq = .next t ∧ (spsrOf .irq t != spsrOf .irq inIrq) = true :=
  ⟨exists_next (by decide), exists_next (by decide), exists_next (by decide), exists_next (by decide),
    exists_next (by decide)⟩

/-- Flags changed by a data-processing instruction, a test, a multiply of either kind (Z, which is not drawn), an MSR and
a return. -/
theorem witness_FlagWriters :
    (∃ t, exec (.sub .al true 1 0 (.shiftImm 1 .lsl 0#5)) start = .next t ∧ (t.cpsr.flags != start.cpsr.flags) = true) ∧
    (∃ t, exec (.cmp .al 1 0 (.shiftImm 1 .lsl 0#5)) start = .next t ∧ (t.cpsr.flags != start.cpsr.flags) = true) ∧
    (∃ t, exec (.mul .al true 0 0 2 3) start = .next t ∧ (t.cpsr.flags.z != start.cpsr.flags.z) = true) ∧
    (∃ t, exec (.umull .al true 4 0 2 3) start = .next t ∧ (t.cpsr.flags.z != start.cpsr.flags.z) = true) ∧
    (∃ t, exec (.msrImm .al .cpsr ⟨true, false⟩ 0#2 2#4 0x0F#8) start = .next t ∧
      (t.cpsr.flags != start.cpsr.flags) = true) ∧
    ∃ t, exec (.mov .al true 0 15 (.shiftImm 1 .lsl 0#5)) inIrqFromThumb = .next t ∧
      (t.cpsr.flags != inIrqFromThumb.cpsr.flags) = true :=
  ⟨exists_next (by decide), exists_next (by decide), exists_next (p := fun t => t.cpsr.flags.z != start.cpsr.flags.z)
      (by decide), exists_next (p := fun t => t.cpsr.flags.z != start.cpsr.flags.z) (by decide),
    exists_next (by decide), exists_next (by decide)⟩

/-- User mode in the normative setting, at an instruction. -/
def userAt (w : Nat) : State := (inMode .usr normative).withFetchWord 32 w

theorem witness_NormativeUserModeConfined :
    (userAt 0xE321F01F).armCompletion = false ∧ (userAt 0xE321F01F).cpsr.mode = .usr ∧
      ∃ t, step (userAt 0xE321F01F) = .next t ∧ true = true :=
  ⟨by decide, by decide, exists_next (p := fun _ => true) (by decide)⟩

/-- Two states that differ in a banked register, its mark and an SPSR, at an instruction that steps, at one that faults,
and in Thumb state, where the step is refused. -/
theorem witness_NormativeUserModeBlind :
    (∀ w ∈ [0xE3A00001, 0xEF000005], let s := userAt w
      let s' := { s with
        regs := s.regs.set (.svc 1) 0x77#32, spsrSvc := ⟨s.cpsr.flags, 0x10#8⟩, unwritten := [.reg (.svc 1)] }
      s.armCompletion = false ∧ s.cpsr.mode = .usr ∧ s' ≠ s ∧
        s'.regs.low = s.regs.low ∧ s'.regs.usr = s.regs.usr ∧ s'.pc = s.pc ∧ s'.cpsr = s.cpsr ∧ s'.mem = s.mem ∧
          s'.ldmUserHazard = s.ldmUserHazard ∧ s'.fault = s.fault ∧ s'.armCompletion = s.armCompletion ∧
          s'.draws = s.draws) ∧
    (∀ p : UnwrittenPart, p.userSees → (p ∈ [UnwrittenPart.reg (.svc 1)] ↔ p ∈ start.unwritten)) ∧
    nextWith (step (userAt 0xE3A00001)) (fun _ => true) = true ∧
    faults false 0xEF000005 [inMode .usr] = some (.unimplemented .softwareInterrupt) ∧
    ∃ s : State, s.armCompletion = false ∧ s.cpsr.mode = .usr ∧ s.fault = none ∧ s.cpsr.t = true := by
  refine ⟨by decide, fun p hp => ⟨fun h => ?_, fun h => absurd h List.not_mem_nil⟩, by decide, by decide,
    ⟨{ State.resetWith false [] with cpsr := ⟨⟨false, false, false, false⟩, false, false, true, .usr⟩ }, by decide⟩⟩
  rw [List.mem_singleton.mp h] at hp
  rcases hp with hp | ⟨r, q, hv, hq⟩
  · exact absurd hp (by decide)
  · exact absurd (UnwrittenPart.reg.inj hq ▸ hv) ((show ∀ r, view .usr r ≠ some (.svc 1) from by decide) r)

/-- R1 without a value: read by a MOV that would complete, by an STR into a prefetched word and by an ADD to a misaligned
pc; nothing without a value read by MOV R0, #1 after the reset of R1101; and, beside R1, a fault of the word. -/
theorem witness_UnwrittenReads :
    (Ready (.mov .al false 0 0 (.shiftImm 1 .lsl 0#5)) (unwritten [.reg (.low 1)] start) ∧
      ¬Written (.mov .al false 0 0 (.shiftImm 1 .lsl 0#5)) (unwritten [.reg (.low 1)] start) ∧
      ∃ t, exec (.mov .al false 0 0 (.shiftImm 1 .lsl 0#5)) start = .next t ∧ true = true) ∧
    (¬Written (.str .al true true false 15 1 (.imm 0#12)) (unwritten [.reg (.low 1)] start) ∧
      exec (.str .al true true false 15 1 (.imm 0#12)) start = .fault (.selfModifyHazard 8#32)) ∧
    (¬Written (.add .al false 1 15 (.imm 0#4 2#8)) (unwritten [.reg (.low 1)] start) ∧
      exec (.add .al false 1 15 (.imm 0#4 2#8)) start = .fault (.unpredictable 112) ∧
      decidedByValue (.add .al false 1 15 (.imm 0#4 2#8)) (.unpredictable 112)) ∧
    (Ready (.mov .al false 0 0 (.imm 0#4 1#8)) (unwritten allParts start) ∧
      Written (.mov .al false 0 0 (.imm 0#4 1#8)) (unwritten allParts start) ∧
      ∃ t, exec (.mov .al false 0 0 (.imm 0#4 1#8)) start = .next t ∧ true = true) ∧
    (exec (.mul .al false 0 0 1 15) start = .fault (.unpredictable 604) ∧
      ¬decidedByValue (.mul .al false 0 0 1 15) (.unpredictable 604)) :=
  ⟨⟨⟨fun _ h => absurd h List.not_mem_nil, by decide, fun h => absurd h (by decide)⟩,
      fun h => h (.reg (.low 1)) (by decide) (by decide), exists_next (p := fun _ => true) (by decide)⟩,
    ⟨fun h => h (.reg (.low 1)) (by decide) (by decide), fault_of (by decide)⟩,
    ⟨fun h => h (.reg (.low 1)) (by decide) (by decide), fault_of (by decide), .inl rfl⟩,
    ⟨⟨fun _ h => absurd h List.not_mem_nil, by decide, fun h => absurd h (by decide)⟩,
      fun _ h => absurd h List.not_mem_nil, exists_next (p := fun _ => true) (by decide)⟩,
    ⟨fault_of (by decide), by simp [decidedByValue]⟩⟩

/-- A logical opcode that leaves C and V without a value, and an entry that saves flags without one. -/
theorem witness_MarksFollowWrites :
    (∃ t, exec (.mov .al true 0 0 (.imm 0#4 0#8)) (unwritten flagParts start) = .next t ∧
      (t.unwritten == [.flagC, .flagV]) = true) ∧
    (∃ t, exec (.swi .al 5#24) (unwritten [.flagV] start) = .next t ∧
      t.unwritten.contains (.spsrFlags .svc) = true) ∧
    condPass .al (unwritten [.flagV] start).cpsr.flags = true :=
  ⟨exists_next (p := fun t => t.unwritten == [.flagC, .flagV]) (by decide),
    exists_next (p := fun t => t.unwritten.contains (.spsrFlags .svc)) (by decide), by decide⟩

/-- R1 and Z without a value. -/
def seen (w : Nat) : State := unwritten [.reg (.low 1), .flagZ] (start.withFetchWord 32 w)

/-- The same with other values in their fields. -/
def unseen (w : Nat) : State :=
  let s := seen w
  { s with regs := s.regs.set (.low 1) 7#32, cpsr := { s.cpsr with flags := { s.cpsr.flags with z := true } } }

theorem seen_unseen (w : Nat) : SameWritten (seen w) (unseen w) where
  unwritten := rfl
  regs p hp := by
    refine regs_get_set_other _ _ fun h => hp ?_
    rw [← h]
    exact List.mem_cons_self
  n _ := rfl
  z h := absurd (by simp [seen, unwritten]) h
  c _ := rfl
  v _ := rfl
  control := rfl
  spsrFlags _ _ := rfl
  spsrControl _ _ := rfl
  pc := rfl
  mem := rfl
  hazard := rfl
  fault := rfl
  completion := rfl
  draws := rfl

/-- A step, a fault that reads R1, one that reads Z, and a refusal. -/
theorem witness_UnwrittenValuesUnseen :
    (∀ w, SameWritten (seen w) (unseen w)) ∧ (unseen 0xE3A00001 != seen 0xE3A00001) = true ∧
      nextWith (step (seen 0xE3A00001)) (fun _ => true) = true ∧
      step (seen 0xE1A00001) = .fault (.unwrittenRead (.reg (.low 1))) ∧
      step (seen 0x03A00001) = .fault (.unwrittenRead .flagZ) ∧
      ∃ s s' : State, SameWritten s s' ∧ step s = .refused .stopped :=
  ⟨seen_unseen, by decide, by decide, fault_of (by decide), fault_of (by decide),
    ⟨{ State.reset with fault := some ⟨.thumbState, none, 0#32⟩ }, _,
      ⟨rfl, fun _ _ => rfl, fun _ => rfl, fun _ => rfl, fun _ => rfl, fun _ => rfl, rfl, fun _ _ => rfl, fun _ _ => rfl,
        rfl, rfl, rfl, rfl, rfl, rfl⟩, rfl⟩⟩

end Sys2Proof.Tests
end

section
/-! PROOFS. The view of each mode (10_state R103): a physical register has one number, under which every view that shows
it shows it, and one bank that decides which modes share it. -/

namespace Sys2Proof.Machine

/-! ## The number and a mode of a physical register -/

/-- The number under which a physical register is visible. -/
def PhysReg.number : PhysReg → RegIdx
  | .low k => Fin.ofNat 16 k.val
  | .usr k | .fiq k => Fin.ofNat 16 (8 + k.val)
  | .irq k | .svc k | .abt k | .und k => Fin.ofNat 16 (13 + k.val)

/-- A mode whose view shows a physical register. -/
def PhysReg.home : PhysReg → Mode
  | .low _ | .usr _ => .usr
  | .fiq _ => .fiq
  | .irq _ => .irq
  | .svc _ => .svc
  | .abt _ => .abt
  | .und _ => .und

theorem view_home_number (p : PhysReg) : view p.home p.number = some p := by
  cases p <;> rename_i k <;> revert k <;> decide

theorem number_of_view {m : Mode} {r : RegIdx} {p : PhysReg} (h : view m r = some p) : p.number = r := by
  have numbers : ∀ q : RegIdx, ∀ p ∈ view m q, p.number = q := by cases m <;> decide
  exact numbers r p h

/-- Two views show a physical register under the same number only. -/
theorem number_eq_of_view_eq {m n : Mode} {r q : RegIdx} (hr : r ≠ 15) (h : view m r = view n q) : r = q := by
  obtain ⟨p, hp⟩ := view_isSome m hr
  exact (number_of_view hp).symm.trans (number_of_view (h ▸ hp))

/-! ## Which modes share a visible register -/

theorem view_low_shared (m n : Mode) {r : RegIdx} (h : r.val ≤ 7) : view m r = view n r := by
  simp [view, Nat.lt_succ_of_le h]

/-- R8 to R12 have two banks: FIQ mode's and that of all other modes. -/
theorem view_middle_shared_iff (m n : Mode) {r : RegIdx} (h8 : 8 ≤ r.val) (h12 : r.val ≤ 12) :
    view m r = view n r ↔ (m = .fiq ↔ n = .fiq) := by
  have h15 : ¬ r.val = 15 := by omega
  cases m <;> cases n <;> simp [view, Nat.not_lt.2 h8, h15, Nat.lt_succ_of_le h12]

/-- R13 and R14 have a bank in each mode, one for User and System. -/
theorem view_high_shared_iff (m n : Mode) {r : RegIdx} (h13 : 13 ≤ r.val) (hr : r ≠ 15) :
    view m r = view n r ↔ m = n ∨ ((m = .usr ∨ m = .sys) ∧ (n = .usr ∨ n = .sys)) := by
  have h8 : ¬ r.val < 8 := by omega
  have h15 : ¬ r.val = 15 := fun h => hr (Fin.ext h)
  cases m <;> cases n <;> simp [view, h8, h15, Nat.not_lt.2 h13]

/-- The bank table of R103, for one number in two views. -/
theorem view_shared_iff (m n : Mode) {r : RegIdx} (hr : r ≠ 15) :
    view m r = view n r ↔
      r.val ≤ 7 ∨ (8 ≤ r.val ∧ r.val ≤ 12 ∧ (m = .fiq ↔ n = .fiq)) ∨
        (13 ≤ r.val ∧ (m = n ∨ ((m = .usr ∨ m = .sys) ∧ (n = .usr ∨ n = .sys)))) := by
  have range : r.val ≤ 7 ∨ (8 ≤ r.val ∧ r.val ≤ 12) ∨ 13 ≤ r.val := by omega
  obtain low | ⟨h8, h12⟩ | h13 := range
  · simp [view_low_shared m n low, low]
  · simp [view_middle_shared_iff m n h8 h12, h8, h12, show ¬ r.val ≤ 7 by omega, show ¬ 13 ≤ r.val by omega]
  · simp [view_high_shared_iff m n h13 hr, h13, show ¬ r.val ≤ 7 by omega, show ¬ r.val ≤ 12 by omega]

end Sys2Proof.Machine

open Sys2Proof Sys2Proof.Machine

/-- Settles O17: equal views have equal numbers, then the bank of each range of numbers decides; reads after writes follow
the views. -/
theorem registerViews : Obligations.RegisterViews := by
  refine ⟨view_eq_none, fun p => ⟨_, _, view_home_number p⟩, fun m n r q hr => ⟨fun h => ?shared, ?same⟩,
    fun m n r q v s hr => ?readBack, readRegIn_pc⟩
  case shared =>
    obtain rfl := number_eq_of_view_eq hr h
    exact ⟨rfl, (view_shared_iff m n hr).1 h⟩
  case same =>
    rintro ⟨rfl, h⟩
    exact (view_shared_iff m n hr).2 h
  case readBack => simp only [readRegIn_writeRegIn, hr, ne_eq, not_false_eq_true, and_true]

end

section
/-! PROOFS. Memory accesses of two and four bytes (20_memory R202 to R210): the bytes of a value and the value of bytes,
what a word or halfword written reads as, and the rotated and sign-extended reads. -/

namespace Sys2Proof.Machine

/-! ## Bytes of a value and the value of bytes (R202) -/

@[simp] theorem length_wordBytes (w : Word) : (wordBytes w).length = 4 := rfl

@[simp] theorem length_halfBytes (h : BitVec 16) : (halfBytes h).length = 2 := rfl

theorem getElem_wordBytes (w : Word) {k : Nat} (hk : k < (wordBytes w).length) :
    (wordBytes w)[k] = w.extractLsb' (8 * k) 8 := by
  match k, hk with
  | 0, _ | 1, _ | 2, _ | 3, _ => rfl

theorem getElem_halfBytes (h : BitVec 16) {k : Nat} (hk : k < (halfBytes h).length) :
    (halfBytes h)[k] = h.extractLsb' (8 * k) 8 := by
  match k, hk with
  | 0, _ | 1, _ => rfl

@[simp] theorem wordBytes_bytesWord (b0 b1 b2 b3 : Byte) : wordBytes (bytesWord b0 b1 b2 b3) = [b0, b1, b2, b3] := by
  simp only [wordBytes, bytesWord, List.cons.injEq, and_true]
  refine ⟨BitVec.extractLsb'_append_eq_right, ?byte1, ?byte2, ?byte3⟩
  case byte1 =>
    rw [BitVec.extractLsb'_append_eq_of_le (w := 8) (by decide)]
    exact BitVec.extractLsb'_append_eq_right
  case byte2 =>
    iterate 2 rw [BitVec.extractLsb'_append_eq_of_le (w := 8) (by decide)]
    exact BitVec.extractLsb'_append_eq_right
  case byte3 =>
    iterate 2 rw [BitVec.extractLsb'_append_eq_of_le (w := 8) (by decide)]
    exact BitVec.extractLsb'_append_eq_left

@[simp] theorem halfBytes_append (b0 b1 : Byte) : halfBytes (b1 ++ b0) = [b0, b1] := by
  simp only [halfBytes, List.cons.injEq, and_true]
  exact ⟨BitVec.extractLsb'_append_eq_right, BitVec.extractLsb'_append_eq_left⟩

/-- A word is determined by its four bytes. -/
theorem word_eq_of_bytes {v w : Word} (h : ∀ k < 4, v.extractLsb' (8 * k) 8 = w.extractLsb' (8 * k) 8) : v = w := by
  rw [← bytesWord_wordBytes v, h 0 (by decide), h 1 (by decide), h 2 (by decide), h 3 (by decide)]
  exact bytesWord_wordBytes w

/-- A halfword is determined by its two bytes. -/
theorem half_eq_of_bytes {v w : BitVec 16} (h : ∀ k < 2, v.extractLsb' (8 * k) 8 = w.extractLsb' (8 * k) 8) :
    v = w := by
  have join (u : BitVec 16) : u.extractLsb' 8 8 ++ u.extractLsb' 0 8 = u :=
    BitVec.extractLsb'_append_extractLsb' (w := 8)
  calc v = v.extractLsb' 8 8 ++ v.extractLsb' 0 8 := (join v).symm
    _ = w.extractLsb' 8 8 ++ w.extractLsb' 0 8 := congrArg₂ _ (h 1 (by decide)) (h 0 (by decide))
    _ = w := join w

/-! ## Writes of a word or halfword, byte by byte (R204) -/

theorem readByte_writeBytes_wordBytes (m : Memory) (a w : Word) {k : Nat} (hk : k < 4) :
    readByte (writeBytes m a (wordBytes w)) (a + BitVec.ofNat 32 k) = w.extractLsb' (8 * k) 8 :=
  (readByte_writeBytes m a (wordBytes w) (by simp) k hk).trans (getElem_wordBytes w hk)

theorem readByte_writeBytes_halfBytes (m : Memory) (a : Word) (h : BitVec 16) {k : Nat} (hk : k < 2) :
    readByte (writeBytes m a (halfBytes h)) (a + BitVec.ofNat 32 k) = h.extractLsb' (8 * k) 8 :=
  (readByte_writeBytes m a (halfBytes h) (by simp) k hk).trans (getElem_halfBytes h hk)

/-! ## Reads of a word or halfword (R203) -/

theorem wordBytes_readWord (m : Memory) (a : Word) :
    wordBytes (readWord m a) =
      [readByte m a, readByte m (a + 1#32), readByte m (a + 2#32), readByte m (a + 3#32)] :=
  wordBytes_bytesWord ..

theorem halfBytes_readHalf (m : Memory) (a : Word) :
    halfBytes (readHalf m a) = [readByte m a, readByte m (a + 1#32)] :=
  halfBytes_append ..

theorem extractLsb'_readWord (m : Memory) (a : Word) {k : Nat} (hk : k < 4) :
    (readWord m a).extractLsb' (8 * k) 8 = readByte m (a + BitVec.ofNat 32 k) := by
  rw [← getElem_wordBytes (readWord m a) hk]
  match k, hk with
  | 0, _ | 1, _ | 2, _ | 3, _ => simp [wordBytes_readWord]

theorem extractLsb'_readHalf (m : Memory) (a : Word) {k : Nat} (hk : k < 2) :
    (readHalf m a).extractLsb' (8 * k) 8 = readByte m (a + BitVec.ofNat 32 k) := by
  rw [← getElem_halfBytes (readHalf m a) hk]
  match k, hk with
  | 0, _ | 1, _ => simp [halfBytes_readHalf]

@[simp] theorem readWord_writeBytes_wordBytes (m : Memory) (a w : Word) :
    readWord (writeBytes m a (wordBytes w)) a = w :=
  word_eq_of_bytes fun _ hk => (extractLsb'_readWord _ a hk).trans (readByte_writeBytes_wordBytes m a w hk)

@[simp] theorem readHalf_writeBytes_halfBytes (m : Memory) (a : Word) (h : BitVec 16) :
    readHalf (writeBytes m a (halfBytes h)) a = h :=
  half_eq_of_bytes fun _ hk => (extractLsb'_readHalf _ a hk).trans (readByte_writeBytes_halfBytes m a h hk)

/-! ## Rotated reads (R206, R207) -/

theorem ror_eq_rotateRight (v : Word) {n : Nat} (hn : n < 32) : ror v n = v.rotateRight n := by
  rw [BitVec.rotateRight_def, Nat.mod_eq_of_lt hn, ror]

theorem readRotateWord_eq (m : Memory) (a : Word) :
    readRotateWord m a = (readWord m (alignWord a)).rotateRight (8 * (a.toNat % 4)) := by
  have amount : (a.extractLsb' 0 2).toNat = a.toNat % 4 := by simp
  rw [readRotateWord, amount, ror_eq_rotateRight _ (by omega)]

theorem readRotateHalf_eq (m : Memory) (a : Word) :
    readRotateHalf m a = ((readHalf m (alignHalf a)).setWidth 32).rotateRight (8 * (a.toNat % 2)) := by
  have amount : (a.extractLsb' 0 1).toNat = a.toNat % 2 := by simp
  rw [readRotateHalf, amount, ror_eq_rotateRight _ (by omega)]

theorem alignHalf_of_odd {a : Word} (odd : a.getLsbD 0 = true) : alignHalf a = a - 1#32 := by
  have bit0 : a &&& 1#32 = 1#32 := by rw [BitVec.and_one_eq_setWidth_ofBool_getLsbD, odd]; rfl
  have noCarry : alignHalf a &&& 1#32 = 0#32 := by rw [alignHalf, BitVec.and_assoc]; exact BitVec.and_zero
  have sum : alignHalf a + 1#32 = a := by
    calc alignHalf a + 1#32 = alignHalf a ||| (a &&& 1#32) := by
          rw [bit0, BitVec.add_eq_or_of_and_eq_zero _ _ noCarry]
      _ = a &&& (~~~1#32 ||| 1#32) := BitVec.and_or_distrib_left.symm
      _ = a := BitVec.and_allOnes
  exact BitVec.eq_sub_iff_add_eq.2 sum

/-- A shift left by 24 keeps the low byte only. -/
theorem setWidth_shiftLeft_24 (h : BitVec 16) : h.setWidth 32 <<< 24 = (h.extractLsb' 0 8).setWidth 32 <<< 24 := by
  ext i hi
  have inByte : i - 24 < 8 := by omega
  simp [inByte]

theorem readRotateHalf_of_odd (m : Memory) {a : Word} (odd : a.getLsbD 0 = true) :
    readRotateHalf m a =
      ((readHalf m (a - 1#32)).setWidth 32 >>> 8) |||
        (((readHalf m (a - 1#32)).extractLsb' 0 8).setWidth 32 <<< 24) := by
  have amount : a.toNat % 2 = 1 := by simpa [BitVec.getLsbD] using odd
  rw [readRotateHalf_eq, amount, alignHalf_of_odd odd, BitVec.rotateRight_def, ← setWidth_shiftLeft_24]

/-! ## Extended reads (R205, R210) -/

theorem toInt_readSignedByte (m : Memory) (a : Word) : (readSignedByte m a).toInt = (readByte m a).toInt :=
  BitVec.toInt_signExtend_of_le (by decide)

theorem toNat_readZeroByte (m : Memory) (a : Word) : (readZeroByte m a).toNat = (readByte m a).toNat :=
  BitVec.toNat_setWidth_of_le (by decide)

theorem toInt_readSignedHalf (m : Memory) (a : Word) :
    (readSignedHalf m a).toInt = if a.getLsbD 0 then (readByte m a).toInt else (readHalf m a).toInt := by
  rw [readSignedHalf]
  split
  case isTrue => exact toInt_readSignedByte m a
  case isFalse => exact BitVec.toInt_signExtend_of_le (by decide)

end Sys2Proof.Machine

open Sys2Proof Sys2Proof.Machine

/-- Settles O14: a byte written is read back or kept by the rules of `writeBytes`, for the bytes of each width. -/
theorem memoryWriteBytes : Obligations.MemoryWriteBytes := by
  intro m a w h b
  exact ⟨fun _ => readByte_writeBytes_wordBytes m a w, fun _ => readByte_writeBytes_halfBytes m a h,
    (readByte_writeByte m a a b).trans (if_pos rfl),
    fun x => readByte_writeBytes_outside m a x (wordBytes w),
    fun x => readByte_writeBytes_outside m a x (halfBytes h),
    fun x hx => (readByte_writeByte m a x b).trans (if_neg hx),
    fun wf => ⟨writeBytes_wf a _ wf, writeBytes_wf a _ wf, writeBytes_wf a _ wf⟩⟩

/-- Settles O15: byte by byte, and a value read back has the bytes of the value written. -/
theorem memoryReadBytes : Obligations.MemoryReadBytes := by
  intro m a
  exact ⟨fun _ => extractLsb'_readWord m a, fun _ => extractLsb'_readHalf m a,
    readWord_writeBytes_wordBytes m a, readHalf_writeBytes_halfBytes m a⟩

/-- Settles O16: a rotation by less than 32 is `rotateRight`, at an odd address by 8 from the address before it; the
extensions keep the value. -/
theorem rotatedAndExtendedReads : Obligations.RotatedAndExtendedReads := by
  intro m a
  exact ⟨readRotateWord_eq m a, readRotateHalf_eq m a, readRotateHalf_of_odd m,
    toInt_readSignedHalf m a, toInt_readSignedByte m a, toNat_readZeroByte m a⟩

end

section
/-! PROOFS. A word of condition NV (30_encoding R343, 40_dispatch R421): what a step in ARM state runs, the record that a
fault leaves, and where in memory the condition of the fetched word stands. -/

namespace Sys2Proof.Machine

/-! ## The step in ARM state and the record of a fault (R410, R1001) -/

theorem step_of_arm {s : State} (noFault : s.fault = none) (arm : s.cpsr.t = false) :
    step s = executeWord (fetchWord s) s := by
  simp [step, noFault, arm]

theorem transition_of_step_fault {s : State} {f : Fault} (h : step s = .fault f) :
    transition s = { s with fault := some { reason := .fault f, instr := some (fetchWord s), pc := s.pc } } := by
  simp only [transition, h]

/-! ## Condition NV (R421) -/

theorem decodeWord_of_nv {w : Word} (nv : field w 28 4 = 0b1111#4) : decodeWord w = .error .conditionNv := by
  simp only [decodeWord, condOf_eq_none.2 nv]

theorem executeWord_of_nv {w : Word} (nv : field w 28 4 = 0b1111#4) (s : State) :
    executeWord w s = .fault (.unpredictable 421) := by
  simp only [executeWord, decodeWord_of_nv nv]

/-- A field of a field. -/
theorem extractLsb'_inside {m n p lo len : Nat} (v : BitVec m) (h : lo + len ≤ n) :
    (v.extractLsb' p n).extractLsb' lo len = v.extractLsb' (p + lo) len := by
  ext i hi
  have inField : lo + i < n := by omega
  simp [inField, Nat.add_assoc]

/-- The condition is the high half of the byte at `pc + 3` (20_memory R202). -/
theorem field_fetchWord_condition (s : State) :
    field (fetchWord s) 28 4 = (readByte s.mem (s.pc + 3#32)).extractLsb' 4 4 := by
  have topByte : (fetchWord s).extractLsb' 24 8 = readByte s.mem (s.pc + 3#32) :=
    extractLsb'_readWord s.mem s.pc (k := 3) (by decide)
  rw [← topByte, extractLsb'_inside _ (by decide), field]

end Sys2Proof.Machine

open Sys2Proof Sys2Proof.Machine

/-- Settles O6: the decoder refuses the fetched word, so the step faults, and the record of a fault keeps the word. -/
theorem conditionNvFaults : Obligations.ConditionNvFaults := by
  intro s noFault arm nv
  have faults : step s = .fault (.unpredictable 421) := by
    rw [step_of_arm noFault arm]
    exact executeWord_of_nv ((field_fetchWord_condition s).trans nv) s
  exact ⟨faults, transition_of_step_fault faults⟩

end

section
/-! PROOFS. The condition of an instruction (40_dispatch R420, R422): the rows of the condition table, and what an
instruction does whose condition fails or cannot be read. -/

namespace Sys2Proof.Machine

/-! ## The rows of the condition table that combine flags or negate one (R420) -/

section
variable {f : Flags}

theorem condPass_ne : condPass .ne f = true ↔ f.z = false := by simp [condPass]

theorem condPass_cc : condPass .cc f = true ↔ f.c = false := by simp [condPass]

theorem condPass_pl : condPass .pl f = true ↔ f.n = false := by simp [condPass]

theorem condPass_vc : condPass .vc f = true ↔ f.v = false := by simp [condPass]

theorem condPass_hi : condPass .hi f = true ↔ f.c = true ∧ f.z = false := by simp [condPass]

theorem condPass_ls : condPass .ls f = true ↔ f.c = false ∨ f.z = true := by simp [condPass]

theorem condPass_ge : condPass .ge f = true ↔ f.n = f.v := by simp [condPass]

theorem condPass_lt : condPass .lt f = true ↔ f.n ≠ f.v := by simp [condPass]

theorem condPass_gt : condPass .gt f = true ↔ f.z = false ∧ f.n = f.v := by simp [condPass]

theorem condPass_le : condPass .le f = true ↔ f.z = true ∨ f.n ≠ f.v := by simp [condPass]

end

/-! ## The guard of the condition (R413, R422) -/

/-- Before anything else the condition is read, and a flag of it without a value faults. -/
theorem exec_undecided {i : Instr} {s : State} (h : ∃ p ∈ condParts i.cond, p ∈ s.unwritten) :
    ∃ p ∈ condParts i.cond, p ∈ s.unwritten ∧ exec i s = .fault (.unwrittenRead p) := by
  rw [exec_eq_handler]
  exact whenPassed_undecided _ _ h

theorem exec_failed {i : Instr} {s : State} (decided : Decided i s) (failed : condPass i.cond s.cpsr.flags = false) :
    exec i s = .next (stepPc (clearHazard s)) := by
  rw [exec_eq_handler]
  exact whenPassed_failed _ _ decided failed

end Sys2Proof.Machine

open Sys2Proof Sys2Proof.Machine

/-- Settles O12: every instruction runs behind the guard of its condition, which answers for both cases. -/
theorem failedConditionOnlySteps : Obligations.FailedConditionOnlySteps :=
  ⟨fun _ _ => exec_undecided, fun _ _ => exec_failed⟩

/-- Settles O11, row by row: the codes are those of `Cond.code`; EQ, CS, MI and VS are a flag itself. -/
theorem conditionTable : Obligations.ConditionTable := by
  intro f
  have one {p q : UnwrittenPart} : p ∈ [q] ↔ p = q := List.mem_singleton
  have two {p q r : UnwrittenPart} : p ∈ [q, r] ↔ p = q ∨ p = r := List.mem_pair
  have three {p : UnwrittenPart} : p ∈ [.flagZ, .flagN, .flagV] ↔ p = .flagZ ∨ p = .flagN ∨ p = .flagV := by simp
  exact ⟨⟨condOf_code .eq, Iff.rfl⟩, ⟨condOf_code .ne, condPass_ne⟩,
    ⟨condOf_code .cs, Iff.rfl⟩, ⟨condOf_code .cc, condPass_cc⟩,
    ⟨condOf_code .mi, Iff.rfl⟩, ⟨condOf_code .pl, condPass_pl⟩,
    ⟨condOf_code .vs, Iff.rfl⟩, ⟨condOf_code .vc, condPass_vc⟩,
    ⟨condOf_code .hi, condPass_hi⟩, ⟨condOf_code .ls, condPass_ls⟩,
    ⟨condOf_code .ge, condPass_ge⟩, ⟨condOf_code .lt, condPass_lt⟩,
    ⟨condOf_code .gt, condPass_gt⟩, ⟨condOf_code .le, condPass_le⟩, ⟨condOf_code .al, rfl⟩,
    fun _ => one, fun _ => one, fun _ => one, fun _ => one, fun _ => one, fun _ => one, fun _ => one, fun _ => one,
    fun _ => two, fun _ => two, fun _ => two, fun _ => two, fun _ => three, fun _ => three,
    fun _ => List.mem_nil_iff _, condOf_eq_none.2 rfl⟩

end

section
/-! PROOFS. Operand 2 in the forms R451 and R453 give it (41_shifter): the rotated immediate, and a register shifted by
the low byte of a register, where the amounts from 32 on have branches of their own. -/

namespace Sys2Proof.Machine

/-- A rotation by a multiple of 32 leaves the word as it was. -/
theorem rotateRight_of_mod_eq_zero (v : Word) {n : Nat} (h : n % 32 = 0) : v.rotateRight n = v := by
  rw [BitVec.rotateRight_def, h, BitVec.ushiftRight_zero, BitVec.shiftLeft_eq_zero (Nat.le_refl 32), BitVec.or_zero]

/-! ## The rotated immediate (R451) -/

theorem rotatedImm_eq (rot : BitVec 4) (imm8 : BitVec 8) :
    rotatedImm rot imm8 = (imm8.setWidth 32).rotateRight (2 * rot.toNat) :=
  ror_eq_rotateRight _ (by omega)

theorem shiftRotatedImm_value (rot : BitVec 4) (imm8 : BitVec 8) (c : Bool) :
    (shiftRotatedImm rot imm8 c).value = rotatedImm rot imm8 := by
  rw [shiftRotatedImm]
  split
  case isTrue zero => rw [rotatedImm_eq, zero]; exact (rotateRight_of_mod_eq_zero _ rfl).symm
  case isFalse => rfl

theorem shiftRotatedImm_carry (rot : BitVec 4) (imm8 : BitVec 8) (c : Bool) :
    (shiftRotatedImm rot imm8 c).carry = if rot = 0#4 then c else (rotatedImm rot imm8).getLsbD 31 := by
  rw [shiftRotatedImm]
  split <;> rfl

/-! ## A register shifted by a register amount (R453) -/

theorem regAmount_eq (v : Word) : regAmount v = v.toNat % 256 := by simp [regAmount]

theorem signFill_eq_sshiftRight (v : Word) {n : Nat} (hn : 32 ≤ n) : signFill v = v.sshiftRight n := by
  ext i hi
  have pastTop : ¬n + i < 32 := by omega
  have allOnes : 0xFFFFFFFF#32 = BitVec.allOnes 32 := rfl
  rw [BitVec.getElem_sshiftRight hi, dif_neg pastTop, signFill, allOnes]
  cases v.msb with
  | true => exact BitVec.getElem_allOnes i hi
  | false => exact BitVec.getElem_zero hi

section
variable (v : Word) {n : Nat} (c : Bool)

theorem shiftByReg_zero (ty : ShiftType) : shiftByReg ty v 0 c = ⟨v, c⟩ := rfl

theorem shiftByReg_of_lt (ty : ShiftType) (pos : n ≠ 0) (below : n < 32) : shiftByReg ty v n c = shiftBy ty v n := by
  rw [shiftByReg.eq_def, if_neg pos, if_pos below]

theorem shiftByReg_lsl (pos : n ≠ 0) :
    shiftByReg .lsl v n c = ⟨v <<< n, decide (n ≤ 32) && v.getLsbD (32 - n)⟩ := by
  rcases Nat.lt_or_ge n 32 with below | above
  case inl => rw [shiftByReg_of_lt v c .lsl pos below, decide_eq_true (Nat.le_of_lt below)]; rfl
  case inr =>
    have carryBit : 32 - n = 0 := Nat.sub_eq_zero_of_le above
    have lastOut : (n == 32) = decide (n ≤ 32) := decide_eq_decide.2 (by omega)
    rw [shiftByReg, if_neg pos, if_neg (Nat.not_lt.2 above), BitVec.shiftLeft_eq_zero above, carryBit, lastOut]

theorem shiftByReg_lsr (pos : n ≠ 0) : shiftByReg .lsr v n c = ⟨v >>> n, v.getLsbD (n - 1)⟩ := by
  rcases Nat.lt_or_ge n 32 with below | above
  case inl => exact shiftByReg_of_lt v c .lsr pos below
  case inr =>
    have carry : (n == 32 && v.msb) = v.getLsbD (n - 1) := by
      rcases Nat.eq_or_lt_of_le above with rfl | past
      case inl => rfl
      case inr =>
        rw [BitVec.getLsbD_of_ge v (n - 1) (by omega), beq_false_of_ne (Nat.ne_of_gt past), Bool.false_and]
    rw [shiftByReg, if_neg pos, if_neg (Nat.not_lt.2 above), BitVec.ushiftRight_eq_zero above, carry]

theorem shiftByReg_asr (pos : n ≠ 0) :
    shiftByReg .asr v n c = ⟨v.sshiftRight n, v.getLsbD (min n 32 - 1)⟩ := by
  rcases Nat.lt_or_ge n 32 with below | above
  case inl => rw [shiftByReg_of_lt v c .asr pos below, Nat.min_eq_left (Nat.le_of_lt below)]; rfl
  case inr =>
    rw [shiftByReg, if_neg pos, if_neg (Nat.not_lt.2 above), signFill_eq_sshiftRight v above, Nat.min_eq_right above]
    rfl

/-- From 32 on the amount counts modulo 32, as it does below 32. -/
theorem shiftByReg_ror_mod (pos : n ≠ 0) :
    shiftByReg .ror v n c = if n % 32 = 0 then ⟨v, v.msb⟩ else shiftBy .ror v (n % 32) := by
  rcases Nat.lt_or_ge n 32 with below | above
  case inl => rw [shiftByReg_of_lt v c .ror pos below, Nat.mod_eq_of_lt below, if_neg pos]
  case inr => rw [shiftByReg, if_neg pos, if_neg (Nat.not_lt.2 above)]

theorem shiftByReg_ror (pos : n ≠ 0) :
    shiftByReg .ror v n c = ⟨v.rotateRight n, v.getLsbD ((n - 1) % 32)⟩ := by
  rw [shiftByReg_ror_mod v c pos]
  split
  case isTrue whole =>
    have top : (n - 1) % 32 = 31 := by omega
    rw [rotateRight_of_mod_eq_zero v whole, top]
    rfl
  case isFalse part =>
    have last : n % 32 - 1 = (n - 1) % 32 := by omega
    rw [shiftBy, ror_eq_rotateRight v (Nat.mod_lt n (by decide)), BitVec.rotateRight_mod_eq_rotateRight, last]

end

theorem shiftOperand_shiftReg (rm rs : RegIdx) (ty : ShiftType) (s : State) :
    shiftOperand (.shiftReg rm ty rs) s =
      shiftByReg ty (readReg s rm) ((readReg s rs).toNat % 256) s.cpsr.flags.c := by
  rw [shiftOperand, regAmount_eq]

end Sys2Proof.Machine

open Sys2Proof Sys2Proof.Machine

/-- Settles O18: the model's rotation by less than 32 is `rotateRight`, which by 0 gives the byte itself. -/
theorem rotatedImmediateOperand : Obligations.RotatedImmediateOperand := by
  intro rot imm8 s
  have value : (shiftOperand (.imm rot imm8) s).value = rotatedImm rot imm8 := shiftRotatedImm_value ..
  rw [value]
  exact ⟨rotatedImm_eq rot imm8, shiftRotatedImm_carry ..⟩

/-- Settles O20, shift type by shift type, each below 32 and from 32 on. -/
theorem registerShiftOperand : Obligations.RegisterShiftOperand := by
  intro rm rs s v n
  simp only [shiftOperand_shiftReg]
  refine ⟨fun zero ty => ?keep, fun pos => ⟨shiftByReg_lsl v _ pos, shiftByReg_lsr v _ pos, shiftByReg_asr v _ pos,
    shiftByReg_ror v _ pos⟩⟩
  case keep => exact (congrArg (shiftByReg ty v · _) zero).trans (shiftByReg_zero v _ ty)

end

section
/-! PROOFS. The add and subtract helpers (42_data R502, R503) in exact arithmetic: carry, not-borrow and signed overflow,
and the rows of the result table that they give. -/

namespace Sys2Proof.Machine

section
variable (a b : Word) (cin : Bool)

/-! ## Addition (R502) -/

theorem addWithFlags_z : (addWithFlags a b cin).2.z = true ↔ (addWithFlags a b cin).1 = 0#32 := beq_iff_eq

theorem addWithFlags_c : (addWithFlags a b cin).2.c = true ↔ 2 ^ 32 ≤ a.toNat + b.toNat + cin.toNat :=
  decide_eq_true_iff

theorem addWithFlags_v_signs :
    (addWithFlags a b cin).2.v = true ↔ a.msb = b.msb ∧ (addWithFlags a b cin).1.msb ≠ a.msb := by
  simp only [addWithFlags, Bool.and_eq_true, beq_iff_eq, bne_iff_ne]

theorem addWithFlags_v_exact :
    (addWithFlags a b cin).2.v = true ↔ (addWithFlags a b cin).1.toInt ≠ a.toInt + b.toInt + cin.toNat := by
  have narrowed : (addWithFlags a b cin).1.toNat = (a.toNat + b.toNat + cin.toNat) % 2 ^ 32 := BitVec.toNat_ofNat ..
  have carryIn : cin.toNat ≤ 1 := cin.toNat_le
  rw [addWithFlags_v_signs]
  simp only [BitVec.msb_eq_decide, BitVec.toInt_eq_toNat_cond, decide_eq_decide, ne_eq]
  omega

/-! ## The rows of the result table that add and subtract -/

/-- The result and the flags of a row, in the form the helpers answer. -/
def DataSpec.output (d : DataSpec) : Word × Flags := (d.value, d.flags)

variable (rd : RegIdx) (sf : Bool)

theorem addWithFlags_eq_addSpec : addWithFlags a b cin = (addSpec rd sf a b cin.toNat).output := by
  have overflow : (addWithFlags a b cin).2.v = (addSpec rd sf a b cin.toNat).flags.v :=
    Bool.eq_iff_iff.2 ((addWithFlags_v_exact a b cin).trans decide_eq_true_iff.symm)
  exact congrArg (fun v => (_, Flags.mk _ _ _ v)) overflow

theorem toInt_complement : (~~~b).toInt = -b.toInt - 1 := by
  have unsigned : (~~~b).toNat = 2 ^ 32 - 1 - b.toNat := BitVec.toNat_not
  rw [BitVec.toInt_eq_toNat_cond, BitVec.toInt_eq_toNat_cond, unsigned]
  omega

/-- To add the complement is to subtract, and to borrow where no carry comes in. -/
theorem addSpec_complement : addSpec rd sf a (~~~b) cin.toNat = subSpec rd sf a b (1 - cin.toNat) := by
  have unsigned : (~~~b).toNat = 2 ^ 32 - 1 - b.toNat := BitVec.toNat_not
  have carryIn : cin.toNat ≤ 1 := cin.toNat_le
  have value : BitVec.ofNat 32 (a.toNat + (~~~b).toNat + cin.toNat) =
      BitVec.ofInt 32 ((a.toNat : Int) - b.toNat - (1 - cin.toNat : Nat)) := by
    apply BitVec.eq_of_toNat_eq
    rw [BitVec.toNat_ofNat, BitVec.toNat_ofInt, unsigned]
    omega
  have carry : 2 ^ 32 ≤ a.toNat + (~~~b).toNat + cin.toNat ↔ b.toNat + (1 - cin.toNat) ≤ a.toNat := by omega
  have signed : a.toInt + (~~~b).toInt + cin.toNat = a.toInt - b.toInt - (1 - cin.toNat : Nat) := by
    rw [toInt_complement]
    omega
  simp only [addSpec, subSpec, arithSpec, value, carry, signed]

theorem addWithFlags_complement_eq_subSpec :
    addWithFlags a (~~~b) cin = (subSpec rd sf a b (1 - cin.toNat)).output := by
  rw [addWithFlags_eq_addSpec a (~~~b) cin rd sf, addSpec_complement]

theorem subWithFlags_eq_subSpec : subWithFlags a b = (subSpec rd sf a b 0).output :=
  addWithFlags_complement_eq_subSpec a b true rd sf

/-! ## Subtraction (R503) -/

theorem subWithFlags_value : (subWithFlags a b).1 = a - b := by
  rw [subWithFlags_eq_subSpec a b 0 false, DataSpec.output, subSpec]
  apply BitVec.eq_of_toNat_eq
  rw [BitVec.toNat_ofInt, BitVec.toNat_sub]
  omega

theorem subWithFlags_c : (subWithFlags a b).2.c = true ↔ b.toNat ≤ a.toNat := by
  rw [subWithFlags_eq_subSpec a b 0 false]
  exact decide_eq_true_iff

theorem subWithFlags_v_signs :
    (subWithFlags a b).2.v = true ↔ a.msb ≠ b.msb ∧ (subWithFlags a b).1.msb ≠ a.msb := by
  have opposite : a.msb = (~~~b).msb ↔ a.msb ≠ b.msb := by
    rw [BitVec.msb_not]
    exact Bool.eq_not
  exact (addWithFlags_v_signs a (~~~b) true).trans (and_congr_left' opposite)

theorem subWithFlags_v_exact :
    (subWithFlags a b).2.v = true ↔ (subWithFlags a b).1.toInt ≠ a.toInt - b.toInt := by
  have signed : a.toInt + (~~~b).toInt + true.toNat = a.toInt - b.toInt := by
    rw [toInt_complement, Bool.toNat_true]
    omega
  exact signed ▸ addWithFlags_v_exact a (~~~b) true

end

end Sys2Proof.Machine

open Sys2Proof Sys2Proof.Machine

/-- Settles O21: each clause is a lemma about the helper; subtraction is addition of the complement, whose signed value is
`-b - 1`. -/
theorem addSubHelpers : Obligations.AddSubHelpers :=
  ⟨fun a b cin => ⟨rfl, rfl, addWithFlags_z a b cin, addWithFlags_c a b cin, addWithFlags_v_signs a b cin,
    addWithFlags_v_exact a b cin⟩,
   fun a b => ⟨rfl, subWithFlags_value a b, subWithFlags_c a b, subWithFlags_v_signs a b, subWithFlags_v_exact a b⟩⟩

end

section
/-! PROOFS. The twelve result opcodes (42_data R501, R520 to R549): each runs as its row of the result table says, behind
its own check, the checks of R510 and those of what it reads; with R15 as Rd the result goes to the pc (R506). -/

namespace Sys2Proof.Machine

/-! ## How a result opcode runs -/

theorem carryNat_eq_toNat (s : State) : carryNat s = s.cpsr.flags.c.toNat := by
  rw [carryNat]
  cases s.cpsr.flags.c <;> rfl

/-- The check an instruction has of its own where the source leaves its class unimplemented (60_exceptions R1010 F1). -/
def ownChecks (i : Instr) (s : State) : List (Bool × Fault) :=
  (unimplementedAs i).toList.map (unimplementedCheck · s)

theorem ownChecks_pass {i : Instr} {s : State} (h : Implemented i s) : ∀ c ∈ ownChecks i s, c.1 = false := by
  rcases h with completed | implemented
  case inl => simp [ownChecks, unimplementedCheck, completed]
  case inr => simp [ownChecks, implemented]

/-- The instruction is a result opcode with the Rn field `rn`, operand 2 `op2` and the row `d`: it reads `sources`, and the
saved status where it returns, and its handler ends with the output of the row, giving the flags `given` a value if
S = 1. -/
structure ResultRun (i : Instr) (s : State) (d : DataSpec) (rn : RegIdx) (op2 : Operand2)
    (sources given : List UnwrittenPart) : Prop where
  operand2 : operand2Of i = some op2
  fields : shiftFields i = rn :: d.rd :: operand2Regs op2
  reads : dependsOn i s = sources ++ returnParts d.sf d.rd s
  runs : handler i s = checked (ownChecks i s ++ resultChecks d.sf rn d.rd op2 s ++ unwrittenChecks sources s)
    (finishResult d.sf d.rd given d.output s)

section
variable {i : Instr} {s : State} {d : DataSpec} {rn : RegIdx} {op2 : Operand2}

theorem resultRun_of_dataHandler {kind : AluKind} {f : Word → Shifted → Flags → Word × Flags}
    (form : handler i s = dataHandler kind d.sf rn d.rd op2 (ownChecks i) f s)
    (operand2 : operand2Of i = some op2) (fields : shiftFields i = rn :: d.rd :: operand2Regs op2)
    (reads : dependsOn i s = regParts [rn] s ++ operand2Reads op2 s ++ kind.reads ++ returnParts d.sf d.rd s)
    (output : f (readReg s rn) (shiftOperand op2 s) s.cpsr.flags = d.output) :
    ∃ rn op2 sources given, ResultRun i s d rn op2 sources given :=
  ⟨rn, op2, _, _, operand2, fields, reads, by rw [form, dataHandler, output, operand2Parts_eq_operand2Reads]⟩

theorem resultRun_of_moveHandler {f : Shifted → Flags → Word × Flags}
    (form : handler i s = moveHandler d.sf rn d.rd op2 (ownChecks i) f s)
    (operand2 : operand2Of i = some op2) (fields : shiftFields i = rn :: d.rd :: operand2Regs op2)
    (reads : dependsOn i s = operand2Reads op2 s ++ returnParts d.sf d.rd s)
    (output : f (shiftOperand op2 s) s.cpsr.flags = d.output) :
    ∃ rn op2 sources given, ResultRun i s d rn op2 sources given :=
  ⟨rn, op2, _, _, operand2, fields, reads, by rw [form, moveHandler, output, operand2Parts_eq_operand2Reads]⟩

/-- Every opcode of the result table runs as its row says. A logical row is what the opcode computes, an arithmetic one
what the helper it uses answers. -/
theorem resultRun_of_dataSpec (h : dataSpec i s = some d) :
    ∃ rn op2 sources given, ResultRun i s d rn op2 sources given := by
  have readsNoCarry (ps qs : List UnwrittenPart) : ps ++ qs = ps ++ [] ++ qs := by rw [List.append_nil]
  cases i
  case and | eor | orr | bic =>
    cases h
    exact resultRun_of_dataHandler rfl rfl rfl (readsNoCarry ..) rfl
  case mov | mvn =>
    cases h
    exact resultRun_of_moveHandler rfl rfl rfl rfl rfl
  case add =>
    cases h
    exact resultRun_of_dataHandler rfl rfl rfl (readsNoCarry ..) (addWithFlags_eq_addSpec _ _ false _ _)
  case sub | rsb =>
    cases h
    exact resultRun_of_dataHandler rfl rfl rfl (readsNoCarry ..) (subWithFlags_eq_subSpec ..)
  case adc =>
    rw [dataSpec, carryNat_eq_toNat] at h
    cases h
    exact resultRun_of_dataHandler rfl rfl rfl rfl (addWithFlags_eq_addSpec ..)
  case sbc | rsc =>
    rw [dataSpec, carryNat_eq_toNat] at h
    cases h
    exact resultRun_of_dataHandler rfl rfl rfl rfl (addWithFlags_complement_eq_subSpec ..)
  all_goals cases h

/-! ## A result opcode whose checks pass -/

theorem pcInRegShift_of_shiftsByPc {rd : RegIdx} (operand2 : operand2Of i = some op2)
    (fields : shiftFields i = rn :: rd :: operand2Regs op2) (h : shiftsByPc i = false) :
    pcInRegShift [rd, rn] op2 = false := by
  cases op2 with
  | imm | shiftImm => rfl
  | shiftReg rm ty rs =>
    have noPc : (rn :: rd :: [rm, rs]).contains 15 = false := by rwa [shiftsByPc, operand2, fields] at h
    have sameFields : List.Perm (rm :: rs :: [rd, rn]) (rn :: rd :: [rm, rs]) :=
      (List.perm_append_comm (l₁ := [rm, rs])).trans (.swap ..)
    exact sameFields.contains_eq.trans noPc

/-- A result opcode that may run, and is no return form, ends as `finishResult` does with the output of its row. -/
theorem handler_of_dataSpec (h : dataSpec i s = some d) (written : Written i s) (implemented : Implemented i s)
    (noPcShift : shiftsByPc i = false) (noReturn : d.sf = false ∨ d.rd ≠ 15) :
    ∃ given, handler i s = finishResult d.sf d.rd given d.output s := by
  obtain ⟨rn, op2, sources, given, operand2, fields, reads, runs⟩ := resultRun_of_dataSpec h
  have sourcesWritten : ∀ p ∈ sources, p ∉ s.unwritten :=
    fun p hp => written p (reads ▸ List.mem_append_left _ hp)
  have pcNotShifted := pcInRegShift_of_shiftsByPc operand2 fields noPcShift
  refine ⟨given, ?_⟩
  rw [runs, checked_append, checked_append, checked_pass _ (ownChecks_pass implemented),
    checked_pass _ (resultChecks_pass noReturn pcNotShifted), checked_pass _ (unwrittenChecks_pass.2 sourcesWritten)]

/-- The same for the whole instruction: operands, row and marks do not see the hazard bit that the guard clears. -/
theorem exec_of_dataSpec (h : dataSpec i s = some d) (ready : Ready i s) (written : Written i s)
    (implemented : Implemented i s) (noPcShift : shiftsByPc i = false) (noReturn : d.sf = false ∨ d.rd ≠ 15) :
    ∃ given, exec i s = finishResult d.sf d.rd given d.output (clearHazard s) := by
  obtain ⟨given, runs⟩ := handler_of_dataSpec (s := clearHazard s) h written implemented noPcShift noReturn
  exact ⟨given, (exec_ready ready).trans runs⟩

end

end Sys2Proof.Machine

open Sys2Proof Sys2Proof.Machine

/-- Settles O24: the instruction ends in `WritePC` of its row's value, which goes to an aligned address or faults. -/
theorem dataProcessingToPc : Obligations.DataProcessingToPc := by
  intro i s d h rdPc noFlags ready written implemented noPcShift
  obtain ⟨given, runs⟩ := exec_of_dataSpec h ready written implemented noPcShift (.inl noFlags)
  have toPc : exec i s = writePc d.value (clearHazard s) := by
    rw [runs, rdPc, noFlags]
    exact finishResult_pc ..
  refine ⟨fun aligned => ⟨_, toPc.trans (writePc_aligned _ (misaligned_eq_false.2 aligned)), jumps_to d.value s⟩,
    fun odd => toPc.trans (writePc_misaligned _ ?misaligned)⟩
  case misaligned => exact bne_iff_ne.2 odd

end

section
/-! PROOFS. MRS and MSR (44_status R650 to R665): what an MRS that may run ends with, what an MSR that answers leaves in the
PSR it names, and that an MRS reads it there. -/

namespace Sys2Proof.Machine

/-! ## The PSR that an instruction names -/

theorem spsrCheck_pass {s : State} {p : Spsr} (h : spsrOf s.cpsr.mode s = some p) : (spsrCheck .spsr s).1 = false := by
  have hasSpsr : s.cpsr.mode.hasSpsr = true := by rw [← spsrOf_isSome _ s, h, Option.isSome_some]
  simp [spsrCheck, hasSpsr]

theorem hasSpsr_of_spsrCheck {s : State} (h : (spsrCheck .spsr s).1 = false) : s.cpsr.mode.hasSpsr = true := by
  simpa [spsrCheck] using h

theorem psrParts_spsr {s : State} {p : Spsr} (h : spsrOf s.cpsr.mode s = some p) : psrParts .spsr s = p := by
  rw [psrParts, h, Option.getD_some]

theorem dependsOn_mrs (c : Cond) (psr : PsrSel) (rd : RegIdx) (s : State) :
    dependsOn (.mrs c psr rd) s = mrsParts psr s := by
  cases psr <;> rfl

/-! ## The value of an MRS (R650, R651) -/

theorem mrsValue_clearHazard (psr : PsrSel) (s : State) : mrsValue psr (clearHazard s) = mrsValue psr s := by
  have samePsr : psrParts psr (clearHazard s) = psrParts psr s := by
    cases psr with
    | cpsr => rfl
    | spsr => rw [psrParts, spsrOf_clearHazard]; rfl
  rw [mrsValue, samePsr]
  rfl

theorem flagsOf_mrsValue (psr : PsrSel) (s : State) : flagsOf (mrsValue psr s) = (psrParts psr s).flags := by
  obtain ⟨n, z, c, v⟩ := psrWord_flags (psrParts psr s).flags (psrParts psr s).control (drawn s)
  rw [mrsValue, flagsOf, n, z, c, v]

theorem mrsValue_control (psr : PsrSel) (s : State) : (mrsValue psr s).extractLsb' 0 8 = (psrParts psr s).control :=
  psrWord_control ..

/-- The alignment of the value is decided by the low mode bits (R652). -/
theorem mrsValue_low_bits (psr : PsrSel) (s : State) :
    (mrsValue psr s).extractLsb' 0 2 = (psrParts psr s).control.extractLsb' 0 2 := by
  rw [← mrsValue_control, BitVec.extractLsb'_extractLsb'_of_le (by decide)]

/-- Of the seven modes only User has the low mode bits 00 (10_state R102). -/
theorem controlByte_low_bits (p : Cpsr) : (controlByte p).extractLsb' 0 2 = 0#2 ↔ p.mode = .usr := by
  have modeBits : (controlByte p).extractLsb' 0 2 = p.mode.bits.extractLsb' 0 2 := by
    rw [← controlByte_mode, BitVec.extractLsb'_extractLsb'_of_le (by decide)]
  rw [modeBits]
  cases p.mode <;> decide

/-! ## An MRS that may run -/

section
variable {c : Cond} {psr : PsrSel} {rd : RegIdx} {s : State}

theorem exec_mrs (hasPsr : (spsrCheck psr s).1 = false) (ready : Ready (.mrs c psr rd) s)
    (written : Written (.mrs c psr rd) s) :
    exec (.mrs c psr rd) s = writeResult rd (mrsValue psr s) (afterDraw (clearHazard s)) := by
  have partsWritten : ∀ p ∈ mrsParts psr s, p ∉ s.unwritten := dependsOn_mrs c psr rd s ▸ written
  have checksPass : ∀ check ∈ [spsrCheck psr s] ++ unwrittenChecks (mrsParts psr s) s, check.1 = false :=
    List.forall_mem_cons.2 ⟨hasPsr, unwrittenChecks_pass.2 partsWritten⟩
  rw [exec_ready ready, ← mrsValue_clearHazard]
  exact checked_pass _ checksPass

/-- A jump after a draw is a jump: a draw changes nothing that `Jumps` names. -/
theorem jumps_afterDraw (v : Word) (s : State) :
    Jumps v s.cpsr.flags s { afterDraw (clearHazard s) with pc := v } :=
  ⟨rfl, rfl, ⟨fun _ _ => rfl, fun _ _ => rfl, fun m => by cases m <;> rfl, rfl, rfl⟩, ⟨rfl, rfl, rfl, rfl, rfl⟩⟩

/-- MRS to R15 goes to the value where the low mode bits of the PSR are 00 (R652). -/
theorem mrs_pc_goes (hasPsr : (spsrCheck psr s).1 = false) (ready : Ready (.mrs c psr 15) s)
    (written : Written (.mrs c psr 15) s) (aligned : (psrParts psr s).control.extractLsb' 0 2 = 0#2) :
    Completes (.mrs c psr 15) s (Jumps (mrsValue psr s) s.cpsr.flags s) := by
  have target : misaligned (mrsValue psr s) = false := misaligned_eq_false.2 ((mrsValue_low_bits psr s).trans aligned)
  refine ⟨_, ?runs, jumps_afterDraw ..⟩
  case runs => rw [exec_mrs hasPsr ready written, writeResult_pc, writePc_aligned _ target]

/-- Where they are not, it faults (R652). -/
theorem mrs_pc_faults (hasPsr : (spsrCheck psr s).1 = false) (ready : Ready (.mrs c psr 15) s)
    (written : Written (.mrs c psr 15) s) (odd : (psrParts psr s).control.extractLsb' 0 2 ≠ 0#2) :
    exec (.mrs c psr 15) s = .fault (.unpredictable 112) := by
  have target : misaligned (mrsValue psr s) = true := bne_iff_ne.2 (mrsValue_low_bits psr s ▸ odd)
  rw [exec_mrs hasPsr ready written, writeResult_pc, writePc_misaligned _ target]

theorem mrs_register_reads (hasPsr : (spsrCheck psr s).1 = false) (ready : Ready (.mrs c psr rd) s)
    (written : Written (.mrs c psr rd) s) (notPc : rd ≠ 15) :
    Completes (.mrs c psr rd) s fun t => readReg t rd = mrsValue psr s :=
  ⟨_, (exec_mrs hasPsr ready written).trans (writeResult_register _ _ notPc),
    (readReg_stepPc _ notPc).trans (readReg_writeReg_same _ _ notPc)⟩

end

/-! ## What an MSR leaves in the PSR it names (R661, R663) -/

/-- An MSR ends as `msrEffect` does, behind the check of the SPSR, some that say nothing of the operand's value, and those
of the value. -/
theorem handler_of_msrSpec {i : Instr} {s : State} {psr : PsrSel} {ff cf : Bool} {v : Word}
    (h : msrSpec i s = some (psr, ff, cf, v)) :
    ∃ others, handler i s = checked (spsrCheck psr s :: others ++ msrValueChecks psr ⟨ff, cf⟩ v s)
      (.next (msrEffect psr ⟨ff, cf⟩ v s)) := by
  cases i
  case msrReg c psr fields ignored rm =>
    rw [msrSpec] at h
    split at h
    · cases h
    · cases h
      exact ⟨(rm == 15, .unpredictable 662) :: unwrittenChecks (regParts [rm] s) s, rfl⟩
  case msrImm c psr fields ignored rot imm8 =>
    rw [msrSpec, ← rotatedImm_eq] at h
    cases h
    exact ⟨[], rfl⟩
  all_goals cases h

section
variable {s : State} {psr : PsrSel} {fields : MsrFields} {v : Word}

@[simp] theorem msrEffect_ldmUserHazard : (msrEffect psr fields v s).ldmUserHazard = s.ldmUserHazard := by
  cases psr <;> simp [msrEffect]

theorem psrParts_msrEffect_cpsr : psrParts .cpsr (msrEffect .cpsr fields v s) = savedPsr (msrCpsr fields v s) := rfl

theorem psrParts_msrEffect_spsr (hasSpsr : s.cpsr.mode.hasSpsr = true) :
    psrParts .spsr (msrEffect .spsr fields v s) = msrSpsr fields v (psrParts .spsr s) := by
  apply psrParts_spsr
  simp [msrEffect, spsrOf_setSpsr, hasSpsr]

/-- An SPSR is there after the MSR as before: only the CPSR's form changes the mode. -/
theorem spsrCheck_msrEffect (hasPsr : (spsrCheck psr s).1 = false) :
    (spsrCheck psr (msrEffect psr fields v s)).1 = false := by
  cases psr with
  | cpsr => rfl
  | spsr => simpa [msrEffect, spsrCheck] using hasPsr

theorem msrCpsr_flags : (msrCpsr fields v s).flags = msrFlags fields.flags v s.cpsr.flags := by
  rw [msrCpsr]
  split <;> rfl

theorem psrParts_msrEffect_flags (hasPsr : (spsrCheck psr s).1 = false) (field : fields.flags = true) :
    (psrParts psr (msrEffect psr fields v s)).flags = flagsOf v := by
  cases psr with
  | cpsr => rw [psrParts_msrEffect_cpsr, savedPsr, msrCpsr_flags, field, msrFlags, if_pos rfl]
  | spsr => rw [psrParts_msrEffect_spsr (hasSpsr_of_spsrCheck hasPsr), msrSpsr, field, msrFlags, if_pos rfl]

/-- Field c restores the CPSR from the value's control byte, as a return does: the value that passes the checks keeps T
and names a mode (R661, R662). -/
theorem restoredPsr_msrCpsr (written : ctrlWritten fields.ctrl s = true)
    (valid : ∀ check ∈ msrValueChecks .cpsr fields v s, check.1 = false) :
    restoredPsr ⟨msrFlags fields.flags v s.cpsr.flags, v.extractLsb' 0 8⟩ = some (msrCpsr fields v s) := by
  have ⟨sameThumb, isMode⟩ : v.getLsbD 5 = s.cpsr.t ∧ (modeOf (v.extractLsb' 0 5)).isSome = true := by
    simpa [msrValueChecks, written] using valid
  obtain ⟨m, named⟩ := Option.isSome_iff_exists.1 isMode
  rw [restoredPsr, msrCpsr, if_pos written, msrControl]
  simp [BitVec.extractLsb'_extractLsb'_of_le, named, ← sameThumb]

theorem psrParts_msrEffect_control (hasPsr : (spsrCheck psr s).1 = false)
    (valid : ∀ check ∈ msrValueChecks psr fields v s, check.1 = false) (field : fields.ctrl = true)
    (privileged : s.cpsr.mode ≠ .usr) :
    (psrParts psr (msrEffect psr fields v s)).control = v.extractLsb' 0 8 := by
  cases psr with
  | cpsr =>
    have written : ctrlWritten fields.ctrl s = true := by simp [ctrlWritten, field, Mode.privileged, privileged]
    exact controlByte_restoredPsr (restoredPsr_msrCpsr written valid)
  | spsr => rw [psrParts_msrEffect_spsr (hasSpsr_of_spsrCheck hasPsr), msrSpsr, if_pos field]

end

/-- An MSR that answers leaves its PSR where it was, with the flags and the control byte of the operand as the mask says,
and the hazard bit clear. -/
theorem msr_leaves {i : Instr} {s t : State} {psr : PsrSel} {ff cf : Bool} {v : Word}
    (spec : msrSpec i s = some (psr, ff, cf, v)) (ready : Ready i s) (answers : exec i s = .next t) :
    (spsrCheck psr t).1 = false ∧ t.ldmUserHazard = false ∧ (ff = true → (psrParts psr t).flags = flagsOf v) ∧
      (cf = true → s.cpsr.mode ≠ .usr → (psrParts psr t).control = v.extractLsb' 0 8) := by
  have sameSpec : msrSpec i (clearHazard s) = some (psr, ff, cf, v) := spec
  obtain ⟨others, runs⟩ := handler_of_msrSpec sameSpec
  obtain ⟨checksPass, next⟩ := checked_eq_next (runs.symm.trans ((exec_ready ready).symm.trans answers))
  cases next
  have hasPsr := checksPass _ (List.mem_append_left _ List.mem_cons_self)
  have valid := fun check member => checksPass check (List.mem_append_right _ member)
  exact ⟨spsrCheck_msrEffect hasPsr, msrEffect_ldmUserHazard, psrParts_msrEffect_flags (fields := ⟨ff, cf⟩) hasPsr,
    psrParts_msrEffect_control (fields := ⟨ff, cf⟩) hasPsr valid⟩

/-- Words with the same flags have the same bits 31:28. -/
theorem top_bits_of_flagsOf {v w : Word} (h : flagsOf v = flagsOf w) : v.extractLsb' 28 4 = w.extractLsb' 28 4 := by
  obtain ⟨n, z, c, o⟩ := Flags.mk.inj h
  apply BitVec.eq_of_getLsbD_eq
  intro k bound
  have position : k = 0 ∨ k = 1 ∨ k = 2 ∨ k = 3 := by omega
  rcases position with rfl | rfl | rfl | rfl
  · simpa using o
  · simpa using c
  · simpa using z
  · simpa using n

/-- An instruction without condition runs where the hazard bit is clear. -/
theorem ready_of_always {i : Instr} {s : State} (always : i.cond = .al) (clear : s.ldmUserHazard = false) : Ready i s := by
  refine ⟨?_, by rw [always]; rfl, fun set => absurd (clear.symm.trans set) Bool.false_ne_true⟩
  rw [Decided, always]
  exact List.forall_mem_nil _

end Sys2Proof.Machine

open Sys2Proof Sys2Proof.Machine

/-- Settles O31: the value is aligned exactly where the low mode bits of the PSR are 00, which for the CPSR is User mode. -/
theorem mrsToPc : Obligations.MrsToPc := by
  intro c s
  refine ⟨fun ready written => ?cpsr, fun p saved ready written => ?spsr⟩
  case cpsr =>
    obtain ⟨n, z, cf, v⟩ := Flags.mk.inj (flagsOf_mrsValue .cpsr s)
    exact ⟨fun user => ⟨mrsValue .cpsr s, n, z, cf, v, mrsValue_control .cpsr s,
        mrs_pc_goes rfl ready written ((controlByte_low_bits s.cpsr).2 user)⟩,
      fun privileged => mrs_pc_faults rfl ready written (mt (controlByte_low_bits s.cpsr).1 privileged)⟩
  case spsr =>
    cases psrParts_spsr saved
    obtain ⟨n, z, cf, v⟩ := Flags.mk.inj (flagsOf_mrsValue .spsr s)
    have hasPsr := spsrCheck_pass saved
    exact ⟨fun aligned => ⟨mrsValue .spsr s, n, z, cf, v, mrsValue_control .spsr s,
        mrs_pc_goes hasPsr ready written aligned⟩,
      fun odd => mrs_pc_faults hasPsr ready written odd⟩

/-- Settles O35: the MRS runs where the MSR has left the PSR, and reads the flags and the control byte that it wrote. -/
theorem msrThenMrsRoundTrip : Obligations.MsrThenMrsRoundTrip := by
  intro i s t psr ff cf v rd spec ready answers notPc written
  obtain ⟨hasPsr, clear, flags, control⟩ := msr_leaves spec ready answers
  obtain ⟨u, runs, reads⟩ := mrs_register_reads hasPsr (ready_of_always rfl clear) written notPc
  refine ⟨u, runs, fun field => ?flags, fun field privileged => ?control⟩
  case flags =>
    rw [reads]
    exact top_bits_of_flagsOf ((flagsOf_mrsValue psr t).trans (flags field))
  case control =>
    rw [reads, mrsValue_control]
    exact control field privileged

end

section
/-! PROOFS. B, BL and BX (45_branch R700 to R721): the target of a branch and its alignment, and what each instruction
ends with once it may run. -/

namespace Sys2Proof.Machine

/-! ## The target of B and BL (R700) -/

theorem branchTarget_eq (off : BitVec 24) (s : State) :
    branchTarget off s = s.pc + 8#32 + BitVec.ofInt 32 (4 * off.toInt) := by
  have offset : (off ++ 0#2).toInt = 4 * off.toInt := by
    rw [BitVec.toInt_append]
    exact Int.add_zero _
  exact congrArg (fun distance => s.pc + 8#32 + BitVec.ofInt 32 distance) offset

/-- Multiples of four keep the low two bits of a word they are added to. -/
theorem low_bits_add_four_mul (v k : Word) : (v + 4#32 * k).extractLsb' 0 2 = v.extractLsb' 0 2 := by
  apply BitVec.eq_of_toNat_eq
  simp only [BitVec.extractLsb'_toNat, BitVec.toNat_add, BitVec.toNat_mul, BitVec.toNat_ofNat, Nat.shiftRight_zero]
  omega

/-- From a word-aligned pc the target is word-aligned, so that `WritePC` does not fault (R700, 10_state R113). -/
theorem branchTarget_aligned (off : BitVec 24) {s : State} (aligned : s.pc.extractLsb' 0 2 = 0#2) :
    misaligned (branchTarget off s) = false := by
  have fourfold : branchTarget off s = s.pc + 4#32 * 2#32 + 4#32 * BitVec.ofInt 32 off.toInt := by
    rw [branchTarget_eq, BitVec.ofInt_mul]
    rfl
  rw [misaligned_eq_false, fourfold, low_bits_add_four_mul, low_bits_add_four_mul, aligned]

/-! ## The link of BL (R701) -/

theorem writeReg_clearHazard (r : RegIdx) (v : Word) (s : State) :
    writeReg r v (clearHazard s) = clearHazard (writeReg r v s) := by
  rw [writeReg, writeReg, clearHazard_cpsr, writeRegIn, writeRegIn]
  cases view s.cpsr.mode r <;> rfl

/-- Writing the pc moves the value of R15 only. -/
theorem readReg_setPc {r : RegIdx} (v : Word) (s : State) (notPc : r ≠ 15) :
    readReg { s with pc := v } r = readReg s r := by
  obtain ⟨p, named⟩ := view_isSome s.cpsr.mode notPc
  rw [readReg, readReg, readRegIn_of_view named, readRegIn_of_view named]

/-- A state that keeps every register keeps those outside any list. -/
theorem Kept.weaken {bytes : List Word} {s t : State} (h : Kept [] bytes s t) (regs : List PhysReg) :
    Kept regs bytes s t :=
  ⟨fun p _ => h.regs p List.not_mem_nil, h.mem, h.spsr, h.fault, h.completion⟩

/-- No status bit sees a register write. -/
theorem plain_of_writeReg {r : RegIdx} {v : Word} {s t : State} (h : Plain (writeReg r v s) t) : Plain s t := by
  obtain ⟨i, f, thumb, mode, hazard⟩ := h
  rw [writeReg_cpsr] at i f thumb mode
  exact ⟨i, f, thumb, mode, hazard⟩

/-! ## B and BL that may run -/

section
variable {c : Cond} {off : BitVec 24} {s : State}

theorem exec_b (ready : Ready (.b c off) s) (aligned : s.pc.extractLsb' 0 2 = 0#2) :
    exec (.b c off) s = .next { clearHazard s with pc := branchTarget off s } :=
  (exec_ready ready).trans (writePc_aligned _ (branchTarget_aligned off aligned))

theorem exec_bl (ready : Ready (.bl c off) s) (aligned : s.pc.extractLsb' 0 2 = 0#2) :
    exec (.bl c off) s =
      .next { clearHazard (writeReg 14 (s.pc + 4#32) s) with pc := branchTarget off s } := by
  rw [← writeReg_clearHazard]
  exact (exec_ready ready).trans (writePc_aligned _ (branchTarget_aligned off aligned))

end

/-! ## BX (R720, R721) -/

theorem exec_bx {c : Cond} {rm : RegIdx} {s : State} (ready : Ready (.bx c rm) s) (written : Written (.bx c rm) s) :
    exec (.bx c rm) s = branchExchange (readReg s rm) (clearHazard s) :=
  (exec_ready ready).trans (checked_pass _ (unwrittenChecks_pass.2 written))

theorem low_bit_eq (v : Word) {k : Nat} (low : k < 2) : v.getLsbD k = (v.extractLsb' 0 2).getLsbD k := by
  rw [BitVec.getLsbD_extractLsb', Nat.zero_add, decide_eq_true low, Bool.true_and]

section
variable {v : Word} (s : State)

theorem branchExchange_thumb (odd : v.getLsbD 0 = true) :
    branchExchange v s = .next { s with pc := v &&& ~~~1#32, cpsr := { s.cpsr with t := true } } := by
  rw [branchExchange, if_pos odd]

theorem branchExchange_arm (word : v.extractLsb' 0 2 = 0b00#2) : branchExchange v s = .next { s with pc := v } := by
  rw [branchExchange, low_bit_eq v Nat.zero_lt_two, low_bit_eq v Nat.one_lt_two, word]
  rfl

theorem branchExchange_halfword (half : v.extractLsb' 0 2 = 0b10#2) :
    branchExchange v s = .fault (.unpredictable 721) := by
  rw [branchExchange, low_bit_eq v Nat.zero_lt_two, low_bit_eq v Nat.one_lt_two, half]
  rfl

end

end Sys2Proof.Machine

open Sys2Proof Sys2Proof.Machine

/-- Settles O36: from a word-aligned pc the target is word-aligned, so both end in a jump; BL's starts from the state
with the link written. -/
theorem branchResults : Obligations.BranchResults := by
  intro c off s aligned
  rw [← branchTarget_eq]
  refine ⟨fun ready => ⟨_, exec_b ready aligned, jumps_to _ s⟩,
    fun ready => ⟨_, exec_bl ready aligned, ?linked⟩⟩
  case linked =>
    have jump := jumps_to (branchTarget off s) (writeReg 14 (s.pc + 4#32) s)
    refine ⟨?link, jump.pc, ?flags, (kept_writeReg ..).trans (jump.kept.weaken _), plain_of_writeReg jump.plain⟩
    case link => rw [readReg_setPc _ _ (by decide), readReg_clearHazard, readReg_writeReg_same _ _ (by decide)]
    case flags => rw [jump.flags, writeReg_cpsr]

/-- Settles O37: BX ends in `branchExchange` of Rm, which the two low bits decide. -/
theorem branchExchangeResults : Obligations.BranchExchangeResults := by
  intro c rm s ready written
  have runs := exec_bx ready written
  refine ⟨fun odd => ⟨_, runs.trans (branchExchange_thumb _ odd), rfl, rfl, rfl, ?kept⟩,
    fun word => ⟨_, runs.trans (branchExchange_arm _ word), jumps_to _ s⟩,
    fun half => runs.trans (branchExchange_halfword _ half)⟩
  case kept => exact ⟨fun _ _ => rfl, fun _ _ => rfl, fun m => by cases m <;> rfl, rfl, rfl⟩

end

section
/-! PROOFS. The register restrictions of single and halfword transfers, swaps and block transfers (46_single R753,
47_halfword R802, R803, R833, 48_block R858), and the T forms as post-indexed transfers (46_single R758). -/

namespace Sys2Proof.Machine

/-! ## Single and halfword transfers -/

/-- R15 as offset register and as a base that moves, each with the rule that forbids it. -/
def TransferSpec.checks (x : TransferSpec) (offRule baseRule : Nat) : List (Bool × Fault) :=
  [(x.off.contains 15, .unpredictable offRule), (x.ix.wb && x.rn == 15, .unpredictable baseRule)]

theorem TransferSpec.checks_fault {x : TransferSpec} (illegal : ¬x.Legal) (offRule baseRule : Nat) (k : Result) :
    ∃ rule, checked (x.checks offRule baseRule) k = .fault (.unpredictable rule) := by
  by_cases pcOffset : 15 ∈ x.off
  case pos => exact ⟨offRule, by simp [checks, checked_cons, pcOffset]⟩
  case neg =>
    have pcBase : x.ix.wb = true ∧ x.rn = 15 := by
      by_contra legalBase
      exact illegal ⟨pcOffset, fun moves isPc => legalBase ⟨moves, isPc⟩⟩
    exact ⟨baseRule, by simp [checks, checked_cons, pcOffset, pcBase]⟩

/-- Every transfer checks its class, then its registers, then what it reads. -/
theorem handler_of_transferSpec {i : Instr} {s : State} {x : TransferSpec}
    (h : (∃ data, loadSpec i s = some (x, data)) ∨ ∃ a n, storeSpec i s = some (x, a, n)) :
    ∃ offRule baseRule reads k, handler i s = checked (ownChecks i s ++ x.checks offRule baseRule ++ reads) k := by
  obtain ⟨data, h⟩ | ⟨a, n, h⟩ := h
  case inl =>
    cases i
    case ldr | ldrb | ldrt | ldrbt =>
      cases h
      exact ⟨753, 753, _, _, rfl⟩
    case ldrh | ldrsb | ldrsh =>
      cases h
      exact ⟨802, 803, _, _, rfl⟩
    all_goals cases h
  case inr =>
    cases i
    case str | strb | strt | strbt =>
      cases h
      exact ⟨753, 753, _, _, rfl⟩
    case strh =>
      cases h
      exact ⟨802, 803, _, _, rfl⟩
    all_goals cases h

theorem exec_of_illegal_transfer {i : Instr} {s : State} {x : TransferSpec} (ready : Ready i s)
    (implemented : Implemented i s)
    (h : (∃ data, loadSpec i s = some (x, data)) ∨ ∃ a n, storeSpec i s = some (x, a, n)) (illegal : ¬x.Legal) :
    ∃ rule, exec i s = .fault (.unpredictable rule) := by
  obtain ⟨offRule, baseRule, reads, k, runs⟩ := handler_of_transferSpec (s := clearHazard s) h
  have classPasses := ownChecks_pass (s := clearHazard s) implemented
  rw [exec_ready ready, runs, checked_append, checked_append, checked_pass _ classPasses]
  exact TransferSpec.checks_fault illegal ..

/-! ## Swaps -/

theorem swapFault_iff {rn rd rm : RegIdx} :
    swapFault rn rd rm = true ↔ rd = 15 ∨ rn = 15 ∨ rm = 15 ∨ rn = rd ∨ rn = rm := by
  simp [swapFault, or_assoc, eq_comm (a := (15 : RegIdx))]

theorem swapHandler_fault {rn rd rm : RegIdx} {s : State} (byte : Bool) (read : Memory → Word → Word)
    (align : Word → Word) (bytes : Word → List Byte) (completed : s.armCompletion = true)
    (illegal : swapFault rn rd rm = true) :
    swapHandler byte rn rd rm read align bytes s = .fault (.unpredictable 833) := by
  have classPasses : (unimplementedCheck (.swap byte) s).1 = false := by simp [unimplementedCheck, completed]
  simp [swapHandler, checked, classPasses, illegal]

/-! ## Block transfers -/

/-- Every block transfer of the current bank checks its base before it reads anything. -/
theorem handler_of_blockSpec {i : Instr} {b : BlockSpec} (h : ldmSpec i = some b ∨ stmSpec i = some b) (s : State) :
    ∃ reads k, handler i s = checked (baseCheck b.rn :: reads) k := by
  obtain h | h := h
  case inl =>
    cases i
    case ldmia | ldmib | ldmda | ldmdb =>
      cases h
      exact ⟨_, _, rfl⟩
    all_goals cases h
  case inr =>
    cases i
    case stmia | stmib | stmda | stmdb =>
      cases h
      exact ⟨_, _, rfl⟩
    all_goals cases h

theorem handler_of_userBank {i : Instr} {c : Cond} {pre up wback : Bool} {rn : RegIdx} {list : BitVec 16}
    (h : (i = .ldmUser c pre up wback rn list ∧ list ≠ 0#16) ∨ i = .stmUser c pre up wback rn list) (s : State) :
    ∃ reads k, handler i s = checked (userBankChecks wback rn s ++ reads) k := by
  obtain ⟨rfl, nonempty⟩ | rfl := h
  case inl => exact ⟨_, _, if_neg nonempty⟩
  case inr => exact ⟨_, _, rfl⟩

theorem handler_of_ldmReturnSpec {i : Instr} {b : BlockSpec} (h : ldmReturnSpec i = some b) (s : State) :
    ∃ reads k, handler i s = checked (ldmRetChecks b.rn s ++ reads) k := by
  cases i
  case ldmRet =>
    cases h
    exact ⟨_, _, rfl⟩
  case ldmUser =>
    obtain ⟨empty, spec⟩ := Option.ite_none_right_eq_some.1 h
    cases spec
    exact ⟨_, _, if_pos empty⟩
  all_goals cases h

/-- A mode has no SPSR exactly where no saved status stands for it (10_state R107). -/
theorem hasSpsr_eq_false_iff {m : Mode} (s : State) : m.hasSpsr = false ↔ spsrOf m s = none := by
  rw [← spsrOf_isSome m s, Option.isSome_eq_false_iff, Option.isNone_iff_eq_none]

theorem userBankChecks_fault {wback : Bool} {rn : RegIdx} {s : State}
    (illegal : rn = 15 ∨ wback = true ∨ s.cpsr.mode.hasSpsr = false) (reads : List (Bool × Fault)) (k : Result) :
    checked (userBankChecks wback rn s ++ reads) k = .fault (.unpredictable 858) := by
  obtain pcBase | moves | noSpsr := illegal
  case inl => simp [userBankChecks, baseCheck, checked_cons, pcBase]
  case inr.inl => simp [userBankChecks, baseCheck, checked_cons, moves]
  case inr.inr => simp [userBankChecks, baseCheck, checked_cons, noSpsr]

theorem ldmRetChecks_fault {s : State} (completed : s.armCompletion = true) (hasSpsr : s.cpsr.mode.hasSpsr = true)
    (reads : List (Bool × Fault)) (k : Result) :
    checked (ldmRetChecks 15 s ++ reads) k = .fault (.unpredictable 858) := by
  simp [ldmRetChecks, baseCheck, checked_cons, completed, hasSpsr]

/-! ## Post-indexed transfers -/

/-- A post-indexed transfer moves its base whatever W is (R752). -/
theorem singleAddress_post_wback (up : Bool) (rn : RegIdx) (off : Offset) (s : State) :
    singleAddress false up true rn off s = singleAddress false up false rn off s := rfl

theorem singleChecks_post_wback (rn : RegIdx) (off : Offset) :
    singleChecks false true rn off = singleChecks false false rn off := rfl

theorem loadHandler_post_wback (read : Memory → Word → Word) (up : Bool) (rn rd : RegIdx) (off : Offset) :
    loadHandler read false up true rn rd off = loadHandler read false up false rn rd off := by
  funext s
  rw [loadHandler, loadHandler, singleAddress_post_wback, singleChecks_post_wback]

theorem storeHandler_post_wback (align : Word → Word) (bytes : Word → List Byte) (up : Bool) (rn rd : RegIdx)
    (off : Offset) :
    storeHandler align bytes false up true rn rd off = storeHandler align bytes false up false rn rd off := by
  funext s
  rw [storeHandler, storeHandler, singleAddress_post_wback, singleChecks_post_wback]

/-- Instructions with one condition, one set of touched registers and one handler do the same. -/
theorem exec_congr {i j : Instr} (s : State) (sameCond : i.cond = j.cond) (sameTouched : touched i = touched j)
    (sameHandler : handler i = handler j) : exec i s = exec j s := by
  rw [exec_eq_handler, exec_eq_handler, sameCond, sameTouched, sameHandler]

end Sys2Proof.Machine

open Sys2Proof Sys2Proof.Machine

/-- Settles O44: every form checks its registers before what it reads, so marks play no part; the checks of its class and
completion, which come first, pass. -/
theorem transferRegisterFaults : Obligations.TransferRegisterFaults := by
  refine ⟨?transfers, ?swaps, ?blocks, ?userBank, ?returns⟩
  case transfers =>
    intro i s x ready implemented spec illegal
    exact exec_of_illegal_transfer ready implemented spec illegal
  case swaps =>
    intro i c rn rd rm s form ready completed illegal
    rw [exec_ready ready]
    obtain rfl | rfl := form
    case inl | inr => exact swapHandler_fault (s := clearHazard s) _ _ _ _ completed (swapFault_iff.2 illegal)
  case blocks =>
    intro i b s spec ready pcBase
    obtain ⟨reads, k, runs⟩ := handler_of_blockSpec spec (clearHazard s)
    rw [exec_ready ready, runs, pcBase]
    rfl
  case userBank =>
    intro i c pre up wback rn list s form ready illegal
    obtain ⟨reads, k, runs⟩ := handler_of_userBank form (clearHazard s)
    rw [← hasSpsr_eq_false_iff] at illegal
    rw [exec_ready ready, runs]
    exact userBankChecks_fault (s := clearHazard s) illegal ..
  case returns =>
    intro i b s spec ready completed saved pcBase
    obtain ⟨reads, k, runs⟩ := handler_of_ldmReturnSpec spec (clearHazard s)
    have hasSpsr := Bool.of_not_eq_false fun none => saved ((hasSpsr_eq_false_iff s).1 none)
    rw [exec_ready ready, runs, pcBase]
    exact ldmRetChecks_fault (s := clearHazard s) completed hasSpsr ..

/-- Settles O41: a T form and its plain post-indexed form differ only in W, which post-indexing does not look at. -/
theorem userTransfersArePostIndexed : Obligations.UserTransfersArePostIndexed := by
  intro c up rn rd off s
  refine ⟨exec_congr s rfl rfl ?word, exec_congr s rfl rfl ?storeWord, exec_congr s rfl rfl ?byte,
    exec_congr s rfl rfl ?storeByte⟩
  case word | byte => exact loadHandler_post_wback ..
  case storeWord | storeByte => exact storeHandler_post_wback ..

end

section
/-! PROOFS. Entering an exception by an instruction and returning from it (49_unimplemented R901, R915, R921,
60_exceptions R1061, R1070, 42_data R541): which instructions enter, what the entry gives a value, and that a result
opcode with Rd = R15 and S = 1 restores what the entry saved. -/

namespace Sys2Proof.Machine

/-! ## Entering by an instruction (R901, R915, R921) -/

/-- An entry does not see the hazard bit that the guard clears. -/
theorem Enters.of_clearHazard {vector ret : Word} {mode : Mode} {f : Bool} {s t : State}
    (h : Enters vector mode ret f (clearHazard s) t) : Enters vector mode ret f s t where
  link := h.link
  saved := h.saved
  cpsr := h.cpsr
  pc := h.pc
  regs := h.regs
  spsr m other := (h.spsr m other).trans (spsrOf_clearHazard m s)
  mem := h.mem
  fault := h.fault
  completion := h.completion

/-- The guard's clearing of the hazard bit and an entry do not see each other. -/
theorem clearHazard_enterException (e : Exc) (ret : Word) (s : State) :
    clearHazard (enterException e ret s) = enterException e ret (clearHazard s) := by
  cases e <;> rfl

/-- A ready instruction whose handler takes an exception other than reset and FIQ enters it. -/
theorem exec_enters {i : Instr} {s : State} {e : Exc} (ready : Ready i s) (keepsFiq : e.masksFiq = false)
    (takes : handler i (clearHazard s) = takeSynchronous e (clearHazard s)) :
    Completes i s fun t => Enters e.vector e.mode (s.pc + 4#32) s.cpsr.f s t ∧ t.ldmUserHazard = false := by
  obtain ⟨t, answers, hazardClear, enters⟩ := takeSynchronous_enters e (clearHazard s) keepsFiq
  exact ⟨t, (exec_ready ready).trans (takes.trans answers), enters.of_clearHazard, hazardClear⟩

/-- Under ARM_COMPLETION the undefined encodings, the coprocessor instructions and the fallback end alike. -/
theorem handler_of_trapsUndefined {i : Instr} {s : State} (traps : trapsUndefined i = true)
    (completed : s.armCompletion = true) : handler i s = takeSynchronous .undefined s := by
  cases i
  case undefHalfword | undefSignedStore | undefGap | undefTest | ldc | stc | cdp | mcr | mrc | fallback =>
    exact if_pos completed
  all_goals cases traps

theorem handler_swi (c : Cond) (comment : BitVec 24) {s : State} (completed : s.armCompletion = true) :
    handler (.swi c comment) s = takeSynchronous .swi s :=
  if_pos completed

/-! ## What an entry gives a value (R1061) -/

theorem savedMarks_eq_nil {s : State} (flagsWritten : ∀ p ∈ flagParts, p ∉ s.unwritten) (m : Mode) :
    savedMarks m s = [] := by
  refine if_neg fun marked => ?_
  obtain ⟨p, isFlag, unwritten⟩ := List.any_eq_true.1 marked
  exact flagsWritten p isFlag (List.contains_iff_mem.1 unwritten)

/-- Where every flag holds a value, R14 and both parts of the SPSR of the mode entered hold one after the entry. -/
theorem enterException_gives (e : Exc) (ret : Word) {s : State} (flagsWritten : ∀ p ∈ flagParts, p ∉ s.unwritten) :
    ∀ p ∈ regPart e.mode 14 ++ spsrParts e.mode, p ∉ (enterException e ret s).unwritten := by
  intro p given unwritten
  rw [enterException_unwritten, savedMarks_eq_nil flagsWritten, List.nil_append, mem_give, writeRegIn_unwritten,
    mem_give] at unwritten
  obtain ⟨⟨-, notLink⟩, notSpsr⟩ := unwritten
  exact (List.mem_append.1 given).elim notLink notSpsr

/-! ## Returning by a result opcode (R541, R1070) -/

/-- Under ARM_COMPLETION the return form passes the checks of R510 in a mode that has an SPSR. -/
theorem resultChecks_return_pass {rn : RegIdx} {op2 : Operand2} {s : State} (completed : s.armCompletion = true)
    (hasSpsr : s.cpsr.mode.hasSpsr = true) (noPcShift : pcInRegShift [15, rn] op2 = false) :
    ∀ c ∈ resultChecks true rn 15 op2 s, c.1 = false := by
  simp [resultChecks, completed, hasSpsr, noPcShift]

section
variable {i : Instr} {target : Word} {s : State}

/-- A result opcode with Rd = R15 and S = 1 that may run returns to the value of its row. -/
theorem exec_return_of_dataSpec {flags : Flags} (spec : dataSpec i s = some ⟨15, true, target, flags⟩)
    (ready : Ready i s) (written : Written i s) (completed : s.armCompletion = true)
    (hasSpsr : s.cpsr.mode.hasSpsr = true) (noPcShift : shiftsByPc i = false) :
    exec i s = exceptionReturn target (clearHazard s) := by
  obtain ⟨rn, op2, sources, given, operand2, fields, reads, runs⟩ := resultRun_of_dataSpec (s := clearHazard s) spec
  have classPasses := ownChecks_pass (i := i) (s := clearHazard s) (.inl completed)
  have pcNotShifted := pcInRegShift_of_shiftsByPc operand2 fields noPcShift
  have sourcesWritten : ∀ p ∈ sources, p ∉ (clearHazard s).unwritten :=
    fun p member => written p (reads ▸ List.mem_append_left _ member)
  rw [exec_ready ready, runs, checked_append, checked_append, checked_pass _ classPasses,
    checked_pass _ (resultChecks_return_pass (s := clearHazard s) completed hasSpsr pcNotShifted),
    checked_pass _ (unwrittenChecks_pass.2 sourcesWritten)]
  exact finishResult_return ..

/-- A return to an aligned address after an entry made in ARM state with every flag written restores the CPSR. -/
theorem exceptionReturn_enterException {e : Exc} {ret : Word} (arm : s.cpsr.t = false)
    (flagsWritten : ∀ p ∈ flagParts, p ∉ s.unwritten) (aligned : misaligned target = false) :
    exceptionReturn target (enterException e ret s) =
      .next (give flagParts { enterException e ret s with cpsr := s.cpsr, pc := target }) := by
  have saved : spsrOf e.mode (enterException e ret s) = some (savedPsr s.cpsr) := by
    rw [spsrOf_enterException, if_pos rfl]
  have savedWritten : ∀ p ∈ spsrParts e.mode, p ∉ (enterException e ret s).unwritten :=
    fun p member => enterException_gives e ret flagsWritten p (List.mem_append_right _ member)
  exact exceptionReturn_eq_next.2 ⟨_, saved, savedWritten,
    resumeAt_eq_next.2 ⟨s.cpsr, restoredPsr_savedPsr s.cpsr, .inr ⟨arm, aligned, rfl⟩⟩⟩

end

/-- `MOVS PC, R14` returns to R14. -/
theorem dataSpec_movs_pc_link (s : State) :
    ∃ flags, dataSpec (.mov .al true 0 15 (.shiftImm 14 .lsl 0#5)) s = some ⟨15, true, readReg s 14, flags⟩ :=
  ⟨_, rfl⟩

end Sys2Proof.Machine

open Sys2Proof Sys2Proof.Machine

/-- Settles O51: SWI enters through its handler; R14_svc and SPSR_svc, which the return reads, hold what the entry put
there. -/
theorem swiEntersAndReturns : Obligations.SwiEntersAndReturns := by
  intro c comment s completed ready
  have takes := handler_swi c comment (s := clearHazard s) completed
  obtain ⟨t, answers, enters, hazardClear⟩ := exec_enters ready rfl takes
  have entered : t = enterException .swi (s.pc + 4#32) (clearHazard s) :=
    Host.Outcome.next.inj (answers.symm.trans ((exec_ready ready).trans takes))
  subst entered
  refine ⟨_, answers, enters, hazardClear, fun arm flagsWritten aligned => ?returns⟩
  case returns =>
    have link : readReg (enterException .swi (s.pc + 4#32) (clearHazard s)) 14 = s.pc + 4#32 :=
      enterException_link .swi _ _
    have targetAligned := misaligned_eq_false.2 ((low_bits_add_four s.pc).trans aligned)
    have written := enterException_gives .swi (s.pc + 4#32) (s := clearHazard s) flagsWritten
    obtain ⟨flags, spec⟩ := dataSpec_movs_pc_link (enterException .swi (s.pc + 4#32) (clearHazard s))
    have runs := exec_return_of_dataSpec spec (ready_of_always rfl hazardClear) written completed rfl rfl
    rw [link, clearHazard_enterException] at runs
    exact ⟨_, runs.trans (exceptionReturn_enterException (s := clearHazard s) arm flagsWritten targetAligned),
      rfl, rfl, rfl, enters.mem⟩

/-- Settles O52: every form ends in the undefined-instruction exception. -/
theorem undefinedInstructionEnters : Obligations.UndefinedInstructionEnters := by
  intro i s traps completed ready
  exact exec_enters ready rfl (handler_of_trapsUndefined (s := clearHazard s) traps completed)

end

section
/-! PROOFS. The steps that run no instruction (40_dispatch R410): the refusals in Thumb state and after a recorded fault,
and the state that each leaves (60_exceptions R1004, R1030). -/

namespace Sys2Proof.Machine

theorem step_of_thumb {s : State} (noFault : s.fault = none) (thumb : s.cpsr.t = true) :
    step s = .refused .thumbState := by
  simp [step, noFault, thumb]

theorem step_of_recorded {s : State} (recorded : s.fault ≠ none) : step s = .refused .stopped :=
  if_pos (Option.isSome_iff_ne_none.2 recorded)

theorem transition_of_step_thumbState {s : State} (h : step s = .refused .thumbState) :
    transition s = { s with fault := some { reason := .thumbState, instr := none, pc := s.pc } } := by
  simp only [transition, h]

theorem transition_of_step_stopped {s : State} (h : step s = .refused .stopped) : transition s = s := by
  simp only [transition, h]

end Sys2Proof.Machine

open Sys2Proof Sys2Proof.Machine

/-- Settles O5: the answer of the step decides the state kept, and Thumb state and a record decide the answer. -/
theorem faultSetsTheRecordAlone : Obligations.FaultSetsTheRecordAlone := by
  intro s
  refine ⟨fun _ => transition_of_step_fault, fun noFault thumb => ?thumb, fun recorded => ?recorded⟩
  case thumb =>
    have refuses := step_of_thumb noFault thumb
    exact ⟨refuses, transition_of_step_thumbState refuses⟩
  case recorded =>
    have refuses := step_of_recorded recorded
    exact ⟨refuses, transition_of_step_stopped refuses⟩

end

section
/-! PROOFS. The decoder reads back what the encoder writes (30_encoding R301 to R325, 40_dispatch R400 to R403): the bits and
the fields of a word built from fields, the family of each format, and what its decoder reads. -/

namespace Sys2Proof
/-! ## Bits and fields of a word built from fields -/

@[simp] theorem bitAt_put_below {n p i : Nat} (v : BitVec n) (h : i < p) : bitAt (put p v) i = false := by
  simp [bitAt_put, show ¬ p ≤ i by omega]

@[simp] theorem bitAt_put_above {n p i : Nat} (v : BitVec n) (h : p + n ≤ i) : bitAt (put p v) i = false := by
  simp [bitAt_put, BitVec.getLsbD_of_ge v (i - p) (by omega)]

@[simp] theorem bitAt_put_inside {n p i : Nat} (v : BitVec n) (h : p ≤ i) (h' : i < 32) :
    bitAt (put p v) i = v.getLsbD (i - p) := by
  simp [bitAt_put, h, h']

@[simp] theorem bitAt_putBit_same {p : Nat} (b : Bool) (h : p < 32) : bitAt (putBit p b) p = b := by
  rw [putBit, bitAt_put_inside _ (Nat.le_refl p) h, Nat.sub_self]
  simp

@[simp] theorem bitAt_putBit_other {p i : Nat} (b : Bool) (h : i ≠ p) : bitAt (putBit p b) i = false := by
  rcases Nat.lt_or_gt_of_ne h with below | above
  · exact bitAt_put_below _ below
  · exact bitAt_put_above _ above

@[simp] theorem bitAt_putReg_outside {p i : Nat} (r : RegIdx) (h : i < p ∨ p + 4 ≤ i) : bitAt (putReg p r) i = false :=
  h.elim (bitAt_put_below _) (bitAt_put_above _)

@[simp] theorem field_putBit_outside {p lo len : Nat} (b : Bool) (h : lo + len ≤ p ∨ p < lo) :
    field (putBit p b) lo len = 0#len :=
  h.elim (field_put_below _) (fun above => field_put_above (BitVec.ofBool b) above)

@[simp] theorem field_putReg_outside {p lo len : Nat} (r : RegIdx) (h : lo + len ≤ p ∨ p + 4 ≤ lo) :
    field (putReg p r) lo len = 0#len :=
  h.elim (field_put_below _) (field_put_above _)

@[simp] theorem field_putReg_same {p : Nat} (r : RegIdx) (h : p + 4 ≤ 32) : field (putReg p r) p 4 = BitVec.ofFin (w := 4) r :=
  field_put_same _ h

theorem getLsbD_discriminant (w : Word) (i : Nat) :
    (discriminant w).getLsbD i = if i < 4 then bitAt w (4 + i) else decide (i < 12) && bitAt w (16 + i) := by
  simp only [discriminant, BitVec.getLsbD_append, field, BitVec.getLsbD_extractLsb', bitAt]
  split
  · simp [*]
  · by_cases h : i < 12
    · simp [h, show i - 4 < 8 by omega, show 20 + (i - 4) = 16 + i by omega]
    · simp [h, show ¬ i - 4 < 8 by omega]

/-- A pattern test bit by bit: the bits of the mask are those of the value (30_encoding R310). -/
theorem hits_discriminant (w : Word) (mask value : BitVec 12) :
    hits (discriminant w) mask value =
      ((bitAt w 27 && mask.getLsbD 11) == value.getLsbD 11 && ((bitAt w 26 && mask.getLsbD 10) == value.getLsbD 10 &&
      ((bitAt w 25 && mask.getLsbD 9) == value.getLsbD 9 && ((bitAt w 24 && mask.getLsbD 8) == value.getLsbD 8 &&
      ((bitAt w 23 && mask.getLsbD 7) == value.getLsbD 7 && ((bitAt w 22 && mask.getLsbD 6) == value.getLsbD 6 &&
      ((bitAt w 21 && mask.getLsbD 5) == value.getLsbD 5 && ((bitAt w 20 && mask.getLsbD 4) == value.getLsbD 4 &&
      ((bitAt w 7 && mask.getLsbD 3) == value.getLsbD 3 && ((bitAt w 6 && mask.getLsbD 2) == value.getLsbD 2 &&
      ((bitAt w 5 && mask.getLsbD 1) == value.getLsbD 1 && ((bitAt w 4 && mask.getLsbD 0) == value.getLsbD 0)))))))))))) := by
  rw [Bool.eq_iff_iff]
  simp only [hits, beq_iff_eq, Bool.and_eq_true]
  constructor
  · intro h
    simp only [← h, BitVec.getLsbD_and, getLsbD_discriminant]
    simp
  · intro h
    apply BitVec.eq_of_getLsbD_eq
    intro i hi
    rw [BitVec.getLsbD_and, getLsbD_discriminant]
    match i, hi with
    | 0, _ | 1, _ | 2, _ | 3, _ | 4, _ | 5, _ | 6, _ | 7, _ | 8, _ | 9, _ | 10, _ | 11, _ =>
      simp [-BitVec.getLsbD_eq_getElem, h]


/-! ## Bits and fields of an operand's bits -/

@[simp] theorem bitAt_operand2_bits (op2 : Operand2) {i : Nat} (h : 12 ≤ i ∧ i ≠ 25) : bitAt op2.bits i = false := by
  obtain ⟨above, notI⟩ := h
  cases op2 <;>
    simp (disch := omega) [Operand2.bits, bitAt_putBit_other, bitAt_put_above, bitAt_putReg_outside]

@[simp] theorem field_operand2_bits (op2 : Operand2) {lo len : Nat} (h : 12 ≤ lo ∧ lo + len ≤ 25) :
    field op2.bits lo len = 0#len := by
  obtain ⟨above, below⟩ := h
  cases op2 <;> simp (disch := omega) [Operand2.bits, field_putBit_outside, field_put_above, field_putReg_outside]

@[simp] theorem bitAt_offset_bits (off : Offset) {i : Nat} (h : 12 ≤ i ∧ i ≠ 25) : bitAt off.bits i = false := by
  obtain ⟨above, notI⟩ := h
  cases off <;>
    simp (disch := omega) [Offset.bits, bitAt_putBit_other, bitAt_put_above, bitAt_putReg_outside]

@[simp] theorem field_offset_bits (off : Offset) {lo len : Nat} (h : 12 ≤ lo ∧ lo + len ≤ 25) :
    field off.bits lo len = 0#len := by
  obtain ⟨above, below⟩ := h
  cases off <;> simp (disch := omega) [Offset.bits, field_putBit_outside, field_put_above, field_putReg_outside]

@[simp] theorem bitAt_halfOffset_bits (off : HalfOffset) {i : Nat} (h : (4 ≤ i ∧ i < 8) ∨ (12 ≤ i ∧ i ≠ 22)) :
    bitAt off.bits i = false := by
  have notI : i ≠ 22 := by omega
  have outside : i < 8 ∨ 12 ≤ i := by omega
  have above : 4 ≤ i := by omega
  cases off with
  | imm imm8 =>
    have nibble : bitAt (put 8 (imm8.extractLsb' 4 4)) i = false :=
      outside.elim (bitAt_put_below _) (fun high => bitAt_put_above _ high)
    simp (disch := omega) [HalfOffset.bits, nibble, bitAt_putBit_other, bitAt_put_above]
  | reg rm => exact bitAt_putReg_outside rm (.inr above)

@[simp] theorem field_halfOffset_bits (off : HalfOffset) {lo len : Nat} (h : 12 ≤ lo ∧ lo + len ≤ 22) :
    field off.bits lo len = 0#len := by
  obtain ⟨above, below⟩ := h
  cases off <;> simp (disch := omega) [HalfOffset.bits, field_putBit_outside, field_put_above, field_putReg_outside]

/-! ## The family of each format -/

section
variable (head : BitVec 4)

theorem familyOf_multiplyBits (a s : Bool) (rd rn rs rm : RegIdx) :
    familyOf (discriminant (put 28 head ||| multiplyBits a s rd rn rs rm)) = .multiply := by
  simp [familyOf, hits_discriminant, multiplyBits]

theorem familyOf_multiplyLongBits (u a s : Bool) (rdHi rdLo rs rm : RegIdx) :
    familyOf (discriminant (put 28 head ||| multiplyLongBits u a s rdHi rdLo rs rm)) = .multiplyLong := by
  simp [familyOf, hits_discriminant, multiplyLongBits, multiplyBits]

theorem familyOf_swapBits (byte : Bool) (rn rd rm : RegIdx) :
    familyOf (discriminant (put 28 head ||| swapBits byte rn rd rm)) = .swap := by
  simp [familyOf, hits_discriminant, swapBits]

theorem familyOf_halfwordBits (pre up wback load s h : Bool) (rn rd : RegIdx) (off : HalfOffset) (notSwap : s || h) :
    familyOf (discriminant (put 28 head ||| halfwordBits pre up wback load s h rn rd off)) = .halfword := by
  cases s <;> simp_all [familyOf, hits_discriminant, halfwordBits, indexBits]

theorem familyOf_undefHalfwordBits (pre up imm wback load s h : Bool) (rn rd : RegIdx) (hi lo : BitVec 4)
    (left : s || h || leftBySwapAndMultiply pre up imm wback load) :
    familyOf (discriminant (put 28 head ||| undefHalfwordBits pre up imm wback load s h rn rd hi lo)) = .halfword := by
  cases s <;> cases h <;> cases pre <;> cases load <;> cases wback <;>
    simp_all [familyOf, hits_discriminant, undefHalfwordBits, indexBits, leftBySwapAndMultiply]

theorem familyOf_singleBits (pre up byte wback load : Bool) (rn rd : RegIdx) (off : Offset) :
    familyOf (discriminant (put 28 head ||| singleBits pre up byte wback load rn rd off)) = .singleTransfer := by
  cases off <;> simp [familyOf, hits_discriminant, singleBits, indexBits, Offset.bits]

theorem familyOf_blockBits (pre up s wback load : Bool) (rn : RegIdx) (list : BitVec 16) :
    familyOf (discriminant (put 28 head ||| blockBits pre up s wback load rn list)) = .blockTransfer := by
  simp [familyOf, hits_discriminant, blockBits, indexBits]

theorem familyOf_branchBits (link : Bool) (off : BitVec 24) :
    familyOf (discriminant (put 28 head ||| branchBits link off)) = .branch := by
  simp [familyOf, hits_discriminant, branchBits]

theorem familyOf_coprocTransferBits (pre up n wback load : Bool) (rn : RegIdx) (crd cp : BitVec 4) (off : BitVec 8) :
    familyOf (discriminant (put 28 head ||| coprocTransferBits pre up n wback load rn crd cp off)) =
      .coprocDataTransfer := by
  simp [familyOf, hits_discriminant, coprocTransferBits, indexBits]

theorem familyOf_coprocOperationBits (op1 crn crd cp : BitVec 4) (op2 : BitVec 3) (crm : BitVec 4) :
    familyOf (discriminant (put 28 head ||| coprocOperationBits op1 crn crd cp op2 crm)) = .coprocDataOperation := by
  simp [familyOf, hits_discriminant, coprocOperationBits]

theorem familyOf_coprocRegisterBits (load : Bool) (op1 : BitVec 3) (crn : BitVec 4) (rd : RegIdx) (cp : BitVec 4)
    (op2 : BitVec 3) (crm : BitVec 4) :
    familyOf (discriminant (put 28 head ||| coprocRegisterBits load op1 crn rd cp op2 crm)) =
      .coprocRegisterTransfer := by
  simp [familyOf, hits_discriminant, coprocRegisterBits]

/-- A data-processing word with a test opcode and S = 0 belongs to other rows (R508). -/
theorem familyOf_dataProcessingBits (opcode : BitVec 4) (s : Bool) (rn rd : RegIdx) (op2 : Operand2)
    (noTest : s = true ∨ opcode[3] = false ∨ opcode[2] = true) :
    familyOf (discriminant (put 28 head ||| dataProcessingBits opcode s rn rd op2)) = .dataProcessing := by
  cases op2 <;> rcases noTest with h | h | h <;>
    simp [familyOf, hits_discriminant, dataProcessingBits, Operand2.bits, h]

end

theorem leftByStatusTransfer_eq_bits (imm : Bool) (op : BitVec 2) (rest : BitVec 12) :
    leftByStatusTransfer imm op rest =
      if imm then !op.getLsbD 0
      else !(rest.getLsbD 7 && rest.getLsbD 4) &&
        (rest.getLsbD 7 || rest.getLsbD 6 || rest.getLsbD 5 || rest.getLsbD 4) &&
        !(!op.getLsbD 1 && op.getLsbD 0 && !rest.getLsbD 7 && !rest.getLsbD 6 && !rest.getLsbD 5 && rest.getLsbD 4) := by
  have bits : ∀ (imm : Bool) (op : BitVec 2) (sh : BitVec 4),
      (if imm then !op.getLsbD 0
        else !(sh.getLsbD 3 && sh.getLsbD 0) && sh != 0#4 && !(op == 1#2 && sh == 1#4)) =
      if imm then !op.getLsbD 0
      else !(sh.getLsbD 3 && sh.getLsbD 0) && (sh.getLsbD 3 || sh.getLsbD 2 || sh.getLsbD 1 || sh.getLsbD 0) &&
        !(!op.getLsbD 1 && op.getLsbD 0 && !sh.getLsbD 3 && !sh.getLsbD 2 && !sh.getLsbD 1 && sh.getLsbD 0) := by
    decide
  have := bits imm op (rest.extractLsb' 4 4)
  simpa only [leftByStatusTransfer, BitVec.getLsbD_extractLsb', Nat.reduceAdd, Nat.reduceLT, decide_true, Bool.true_and] using this

theorem familyOf_undefTest (head : BitVec 4) (imm : Bool) (op : BitVec 2) (rn rd : RegIdx) (rest : BitVec 12)
    (left : leftByStatusTransfer imm op rest = true) :
    familyOf (discriminant (put 28 head |||
      (putBit 25 imm ||| put 23 2#2 ||| put 21 op ||| putReg 16 rn ||| putReg 12 rd ||| put 0 rest))) = .dataProcessing := by
  rw [leftByStatusTransfer_eq_bits] at left
  cases imm <;>
    simp [familyOf, hits_discriminant, -BitVec.getLsbD_eq_getElem] at left ⊢
  · grind
  · simpa using left

theorem familyOf_bx (head : BitVec 4) (x : BitVec 12) (rm : RegIdx) :
    familyOf (discriminant (put 28 head ||| (put 20 0x12#8 ||| put 8 x ||| put 4 1#4 ||| putReg 0 rm))) =
      .branchExchange := by
  simp [familyOf, hits_discriminant]

theorem familyOf_undefGap (head : BitVec 4) (hi : BitVec 20) (lo : BitVec 4) :
    familyOf (discriminant (put 28 head ||| (put 25 3#3 ||| put 5 hi ||| putBit 4 true ||| put 0 lo))) =
      .undefinedGap := by
  simp [familyOf, hits_discriminant]

theorem familyOf_swi (head : BitVec 4) (comment : BitVec 24) :
    familyOf (discriminant (put 28 head ||| (put 24 15#4 ||| put 0 comment))) = .softwareInterrupt := by
  simp [familyOf, hits_discriminant]

theorem familyOf_mrs (head : BitVec 4) (r : Bool) (rd : RegIdx) :
    familyOf (discriminant (put 28 head ||| (put 23 2#2 ||| putBit 22 r ||| put 16 15#4 ||| putReg 12 rd))) = .mrs := by
  simp [familyOf, hits_discriminant]

theorem familyOf_msrReg (head : BitVec 4) (psr : PsrSel) (fields : MsrFields) (ignored : BitVec 2) (rm : RegIdx) :
    familyOf (discriminant (put 28 head ||| (msrBits psr fields ignored ||| putReg 0 rm))) = .msr := by
  simp [familyOf, hits_discriminant, msrBits]

theorem familyOf_msrImm (head : BitVec 4) (psr : PsrSel) (fields : MsrFields) (ignored : BitVec 2) (rot : BitVec 4)
    (imm8 : BitVec 8) :
    familyOf (discriminant (put 28 head ||| (putBit 25 true ||| msrBits psr fields ignored ||| put 8 rot ||| put 0 imm8))) =
      .msr := by
  simp [familyOf, hits_discriminant, msrBits]

/-! ## What the decoder of a family reads -/

section
variable (c : Cond)

theorem decodeMultiply_read (a s : Bool) (rd rn rs rm : RegIdx) :
    decodeMultiply c (put 28 c.code ||| multiplyBits a s rd rn rs rm) =
      if a then .mla c s rd rn rs rm else .mul c s rd rn rs rm := by
  simp [decodeMultiply, multiplyBits, regAt, field_put_below, field_put_above]

theorem decodeMultiplyLong_read (u a s : Bool) (rdHi rdLo rs rm : RegIdx) :
    decodeMultiplyLong c (put 28 c.code ||| multiplyLongBits u a s rdHi rdLo rs rm) =
      match u, a with
      | false, false => .umull c s rdHi rdLo rs rm
      | false, true => .umlal c s rdHi rdLo rs rm
      | true, false => .smull c s rdHi rdLo rs rm
      | true, true => .smlal c s rdHi rdLo rs rm := by
  cases u <;> cases a <;>
    simp [decodeMultiplyLong, multiplyLongBits, multiplyBits, regAt, field_put_below, field_put_above]

theorem decodeSwap_read (byte : Bool) (rn rd rm : RegIdx) :
    decodeSwap c (put 28 c.code ||| swapBits byte rn rd rm) = if byte then .swpb c rn rd rm else .swp c rn rd rm := by
  simp [decodeSwap, swapBits, regAt, field_put_below, field_put_above]

theorem decodeOperand2_read (opcode : BitVec 4) (s : Bool) (rn rd : RegIdx) (op2 : Operand2) :
    decodeOperand2 (put 28 c.code ||| dataProcessingBits opcode s rn rd op2) = op2 := by
  cases op2 <;>
    simp [decodeOperand2, dataProcessingBits, Operand2.bits, regAt, field_put_below, field_put_above, field_put_same]

theorem decodeOffset_read (pre up byte wback load : Bool) (rn rd : RegIdx) (off : Offset) :
    decodeOffset (put 28 c.code ||| singleBits pre up byte wback load rn rd off) = off := by
  cases off <;>
    simp [decodeOffset, singleBits, indexBits, Offset.bits, regAt, field_put_below, field_put_above, field_put_same]

theorem decodeHalfOffset_read (pre up wback load s h : Bool) (rn rd : RegIdx) (off : HalfOffset) :
    decodeHalfOffset (put 28 c.code ||| halfwordBits pre up wback load s h rn rd off) = off := by
  cases off with
  | imm imm8 =>
    have nibbles : imm8.extractLsb' 4 4 ++ imm8.extractLsb' 0 4 = imm8 := BitVec.extractLsb'_append_extractLsb' (w := 4)
    simp [decodeHalfOffset, halfwordBits, indexBits, HalfOffset.bits, field_put_below, field_put_above, field_put_same,
      nibbles]
  | reg rm =>
    simp [decodeHalfOffset, halfwordBits, indexBits, HalfOffset.bits, regAt, field_put_below]

/-- The bits and registers of a halfword transfer. -/
theorem halfwordBits_read {w : Word} {pre up wback load s h : Bool} {rn rd : RegIdx} {off : HalfOffset}
    (word : w = put 28 c.code ||| halfwordBits pre up wback load s h rn rd off) :
    bitAt w 24 = pre ∧ bitAt w 23 = up ∧ bitAt w 21 = wback ∧ bitAt w 20 = load ∧ bitAt w 6 = s ∧ bitAt w 5 = h ∧
      regAt w 16 = rn ∧ regAt w 12 = rd ∧ decodeHalfOffset w = off := by
  subst word
  rw [decodeHalfOffset_read]
  simp [halfwordBits, indexBits, regAt, field_put_below]

theorem undefHalfwordBits_read {w : Word} {pre up imm wback load s h : Bool} {rn rd : RegIdx} {hi lo : BitVec 4}
    (word : w = put 28 c.code ||| undefHalfwordBits pre up imm wback load s h rn rd hi lo) :
    bitAt w 24 = pre ∧ bitAt w 23 = up ∧ bitAt w 22 = imm ∧ bitAt w 21 = wback ∧ bitAt w 20 = load ∧ bitAt w 6 = s ∧
      bitAt w 5 = h ∧ regAt w 16 = rn ∧ regAt w 12 = rd ∧ field w 8 4 = hi ∧ field w 0 4 = lo := by
  subst word
  simp [undefHalfwordBits, indexBits, regAt, field_put_below, field_put_above, field_put_same]

theorem singleBits_read {w : Word} {pre up byte wback load : Bool} {rn rd : RegIdx} {off : Offset}
    (word : w = put 28 c.code ||| singleBits pre up byte wback load rn rd off) :
    bitAt w 24 = pre ∧ bitAt w 23 = up ∧ bitAt w 22 = byte ∧ bitAt w 21 = wback ∧ bitAt w 20 = load ∧
      regAt w 16 = rn ∧ regAt w 12 = rd ∧ decodeOffset w = off := by
  subst word
  rw [decodeOffset_read]
  simp [singleBits, indexBits, regAt, field_put_below]

theorem blockBits_read {w : Word} {pre up s wback load : Bool} {rn : RegIdx} {list : BitVec 16}
    (word : w = put 28 c.code ||| blockBits pre up s wback load rn list) :
    bitAt w 24 = pre ∧ bitAt w 23 = up ∧ bitAt w 22 = s ∧ bitAt w 21 = wback ∧ bitAt w 20 = load ∧ regAt w 16 = rn ∧
      bitAt w 15 = list.getLsbD 15 ∧ field w 0 16 = list := by
  subst word
  simp [blockBits, indexBits, regAt, field_put_below, field_put_above, field_put_same]

theorem dataProcessingBits_read {w : Word} {opcode : BitVec 4} {s : Bool} {rn rd : RegIdx} {op2 : Operand2}
    (word : w = put 28 c.code ||| dataProcessingBits opcode s rn rd op2) :
    field w 21 4 = opcode ∧ bitAt w 20 = s ∧ regAt w 16 = rn ∧ regAt w 12 = rd ∧ decodeOperand2 w = op2 := by
  subst word
  rw [decodeOperand2_read]
  simp [dataProcessingBits, regAt, field_put_below, field_put_same]

theorem decodeBranch_read (link : Bool) (off : BitVec 24) :
    decodeBranch c (put 28 c.code ||| branchBits link off) = if link then .bl c off else .b c off := by
  simp [decodeBranch, branchBits, field_put_below, field_put_same]

theorem decodeCoprocTransfer_read (pre up n wback load : Bool) (rn : RegIdx) (crd cp : BitVec 4) (off : BitVec 8) :
    decodeCoprocTransfer c (put 28 c.code ||| coprocTransferBits pre up n wback load rn crd cp off) =
      if load then .ldc c pre up n wback rn crd cp off else .stc c pre up n wback rn crd cp off := by
  simp [decodeCoprocTransfer, coprocTransferBits, indexBits, regAt, field_put_below, field_put_above, field_put_same]

theorem decodeCoprocOperation_read (op1 crn crd cp : BitVec 4) (op2 : BitVec 3) (crm : BitVec 4) :
    decodeFamily c (put 28 c.code ||| coprocOperationBits op1 crn crd cp op2 crm) .coprocDataOperation =
      .cdp c op1 crn crd cp op2 crm := by
  simp [decodeFamily, coprocOperationBits, field_put_below, field_put_above, field_put_same]

theorem decodeCoprocRegister_read (load : Bool) (op1 : BitVec 3) (crn : BitVec 4) (rd : RegIdx) (cp : BitVec 4)
    (op2 : BitVec 3) (crm : BitVec 4) :
    decodeCoprocRegister c (put 28 c.code ||| coprocRegisterBits load op1 crn rd cp op2 crm) =
      if load then .mrc c op1 crn rd cp op2 crm else .mcr c op1 crn rd cp op2 crm := by
  simp [decodeCoprocRegister, coprocRegisterBits, regAt, field_put_below, field_put_above, field_put_same]

end

theorem decodeMsr_reg_read (c : Cond) (psr : PsrSel) (fields : MsrFields) (ignored : BitVec 2) (rm : RegIdx) :
    decodeMsr c (put 28 c.code ||| (msrBits psr fields ignored ||| putReg 0 rm)) = .msrReg c psr fields ignored rm := by
  simp [decodeMsr, msrBits, regAt, field_put_below, field_put_above, field_put_same]

theorem decodeMsr_imm_read (c : Cond) (psr : PsrSel) (fields : MsrFields) (ignored : BitVec 2) (rot : BitVec 4)
    (imm8 : BitVec 8) :
    decodeMsr c (put 28 c.code ||| (putBit 25 true ||| msrBits psr fields ignored ||| put 8 rot ||| put 0 imm8)) =
      .msrImm c psr fields ignored rot imm8 := by
  simp [decodeMsr, msrBits, field_put_below, field_put_above, field_put_same]

theorem not_userTransfer_of_plain {pre wback : Bool} (plain : plainIndexing pre wback = true) :
    ¬ (!pre && wback) = true := by
  cases pre <;> simp_all [plainIndexing]

/-- Bits 24:21 of an undefined test word: a test opcode (R508). -/
theorem opcode_of_undefTest (head : BitVec 4) (imm : Bool) (op : BitVec 2) (rn rd : RegIdx) (rest : BitVec 12) :
    field (put 28 head |||
      (putBit 25 imm ||| put 23 2#2 ||| put 21 op ||| putReg 16 rn ||| putReg 12 rd ||| put 0 rest)) 21 4 = 2#2 ++ op := by
  have opcode : field (put 23 2#2 ||| put 21 op) 21 4 = 2#2 ++ op := by
    revert op
    decide
  simpa [field_put_below, field_put_above] using opcode

/-- The test opcodes with S = 0 (R508). -/
theorem decodeDataProcessing_of_undefTest {w : Word} (c : Cond) {op : BitVec 2} (opcode : field w 21 4 = 2#2 ++ op)
    (s : bitAt w 20 = false) :
    decodeDataProcessing c w =
      .undefTest c (bitAt w 25) (field w 21 2) (regAt w 16) (regAt w 12) (field w 0 12) := by
  rw [decodeDataProcessing, opcode, s]
  have ops : op = 0#2 ∨ op = 1#2 ∨ op = 2#2 ∨ op = 3#2 := by
    clear opcode
    revert op
    decide
  obtain rfl | rfl | rfl | rfl := ops <;> rfl

theorem decodeUndefTest_read (c : Cond) (imm : Bool) (op : BitVec 2) (rn rd : RegIdx) (rest : BitVec 12) :
    decodeDataProcessing c (put 28 c.code |||
      (putBit 25 imm ||| put 23 2#2 ||| put 21 op ||| putReg 16 rn ||| putReg 12 rd ||| put 0 rest)) =
    .undefTest c imm op rn rd rest := by
  rw [decodeDataProcessing_of_undefTest c (opcode_of_undefTest ..) (by simp)]
  simp [regAt, field_put_below, field_put_above, field_put_same]

/-! ## Decoding an encoded instruction -/

/-- A word of a condition and a family decodes as the family's decoder reads it. -/
theorem decodeWord_of_family {w : Word} {c : Cond} {f : Family} {i : Instr} (condition : condOf (field w 28 4) = some c)
    (family : familyOf (discriminant w) = f) (read : decodeFamily c w f = i) : decodeWord w = .ok i := by
  simp only [decodeWord, condition, family, read]

open Laws.EncodesCondition in
/-- Every word carries its condition (R301). -/
theorem condOf_encode (i : Instr) : condOf (field (encode i) 28 4) = some i.cond := by
  cases i
  case mul | mla => exact of_body (multiplies ..)
  case umull | umlal | smull | smlal => exact of_body (longMultiplies ..)
  case swp | swpb => exact of_body (swaps ..)
  case ldrh | strh | ldrsb | ldrsh => exact of_body (halfwords ..)
  case undefHalfword | undefSignedStore => exact of_body (undefHalfwords ..)
  case ldr | str | ldrb | strb | ldrt | strt | ldrbt | strbt => exact of_body (singles ..)
  case ldmia | ldmib | ldmda | ldmdb | stmia | stmib | stmda | stmdb | ldmRet | ldmUser | stmUser =>
    exact of_body (blocks ..)
  case b | bl => exact of_body (branches ..)
  case ldc | stc => exact of_body (coprocTransfers ..)
  case cdp => exact of_body (coprocOperations ..)
  case mcr | mrc => exact of_body (coprocRegisters ..)
  case and | eor | sub | rsb | add | adc | sbc | rsc | tst | teq | cmp | cmn | orr | mov | bic | mvn =>
    exact of_body (dataProcessing ..)
  case bx => exact bx ..
  case undefGap => exact undefGap ..
  case swi => exact swi ..
  case mrs => exact mrs ..
  case msrReg => exact msrReg ..
  case msrImm => exact msrImm ..
  case undefTest => exact undefTest ..
  case fallback => exact fallback ..

theorem decodeWord_encode {i : Instr} (wf : i.wellFormed = true) : decodeWord (encode i) = .ok i := by
  have condition := condOf_encode i
  cases i
  case mul | mla => exact decodeWord_of_family condition (familyOf_multiplyBits ..) (decodeMultiply_read ..)
  case umull | umlal | smull | smlal =>
    exact decodeWord_of_family condition (familyOf_multiplyLongBits ..) (decodeMultiplyLong_read ..)
  case swp | swpb => exact decodeWord_of_family condition (familyOf_swapBits ..) (decodeSwap_read ..)
  case ldrh | strh | ldrsb | ldrsh =>
    refine decodeWord_of_family condition (familyOf_halfwordBits (notSwap := rfl) ..) ?_
    simp only [encode, Instr.cond, Instr.body, decodeFamily, decodeHalfword, halfwordBits_read _ rfl]
  case undefHalfword =>
    refine decodeWord_of_family condition (familyOf_undefHalfwordBits (left := wf) ..) ?_
    simp only [encode, Instr.cond, Instr.body, decodeFamily, decodeHalfword, undefHalfwordBits_read _ rfl]
  case undefSignedStore =>
    refine decodeWord_of_family condition (familyOf_undefHalfwordBits (left := rfl) ..) ?_
    simp only [encode, Instr.cond, Instr.body, decodeFamily, decodeHalfword, undefHalfwordBits_read _ rfl]
  case ldr | str | ldrb | strb =>
    refine decodeWord_of_family condition (familyOf_singleBits ..) ?_
    simp only [encode, Instr.cond, Instr.body, decodeFamily, decodeSingle, decodeUserTransfer, singleBits_read _ rfl]
    exact if_neg (not_userTransfer_of_plain wf)
  case ldrt | strt | ldrbt | strbt =>
    refine decodeWord_of_family condition (familyOf_singleBits ..) ?_
    simp only [encode, Instr.cond, Instr.body, decodeFamily, decodeSingle, decodeUserTransfer, singleBits_read _ rfl]
    rfl
  case ldmia | ldmib | ldmda | ldmdb | stmia | stmib | stmda | stmdb | stmUser =>
    refine decodeWord_of_family condition (familyOf_blockBits ..) ?_
    simp only [encode, Instr.cond, Instr.body, decodeFamily, decodeBlock, decodeBlockPlain, blockBits_read _ rfl]
    rfl
  case ldmRet =>
    refine decodeWord_of_family condition (familyOf_blockBits ..) ?_
    simp only [encode, Instr.cond, Instr.body, decodeFamily, decodeBlock, blockBits_read _ rfl]
    exact if_pos wf
  case ldmUser =>
    refine decodeWord_of_family condition (familyOf_blockBits ..) ?_
    simp only [encode, Instr.cond, Instr.body, decodeFamily, decodeBlock, blockBits_read _ rfl]
    rw [Instr.wellFormed, Bool.not_eq_true'] at wf
    exact if_neg (Bool.eq_false_iff.mp wf)
  case b | bl => exact decodeWord_of_family condition (familyOf_branchBits ..) (decodeBranch_read ..)
  case ldc | stc =>
    exact decodeWord_of_family condition (familyOf_coprocTransferBits ..) (decodeCoprocTransfer_read ..)
  case cdp =>
    exact decodeWord_of_family condition (familyOf_coprocOperationBits ..) (decodeCoprocOperation_read ..)
  case mcr | mrc =>
    exact decodeWord_of_family condition (familyOf_coprocRegisterBits ..) (decodeCoprocRegister_read ..)
  case and | eor | sub | rsb | add | adc | sbc | rsc =>
    refine decodeWord_of_family condition (familyOf_dataProcessingBits (noTest := .inr (.inl rfl)) ..) ?_
    simp only [encode, Instr.cond, Instr.body, decodeFamily, decodeDataProcessing, dataProcessingBits_read _ rfl]
    rfl
  case tst | teq | cmp | cmn =>
    refine decodeWord_of_family condition (familyOf_dataProcessingBits (noTest := .inl rfl) ..) ?_
    simp only [encode, Instr.cond, Instr.body, decodeFamily, decodeDataProcessing, dataProcessingBits_read _ rfl]
    rfl
  case orr | mov | bic | mvn =>
    refine decodeWord_of_family condition (familyOf_dataProcessingBits (noTest := .inr (.inr rfl)) ..) ?_
    simp only [encode, Instr.cond, Instr.body, decodeFamily, decodeDataProcessing, dataProcessingBits_read _ rfl]
    rfl
  case bx =>
    refine decodeWord_of_family condition (familyOf_bx ..) ?_
    simp [encode, Instr.cond, Instr.body, decodeFamily, regAt, field_put_below]
  case undefGap =>
    refine decodeWord_of_family condition (familyOf_undefGap ..) ?_
    simp [encode, Instr.cond, Instr.body, decodeFamily, field_put_below, field_put_above, field_put_same]
  case swi =>
    refine decodeWord_of_family condition (familyOf_swi ..) ?_
    simp [encode, Instr.cond, Instr.body, decodeFamily, field_put_below, field_put_same]
  case mrs =>
    refine decodeWord_of_family condition (familyOf_mrs ..) ?_
    simp [encode, Instr.cond, Instr.body, decodeFamily, regAt, field_put_below]
  case msrReg => exact decodeWord_of_family condition (familyOf_msrReg ..) (decodeMsr_reg_read ..)
  case msrImm => exact decodeWord_of_family condition (familyOf_msrImm ..) (decodeMsr_imm_read ..)
  case undefTest => exact decodeWord_of_family condition (familyOf_undefTest (left := wf) ..) (decodeUndefTest_read ..)
  case fallback => exact absurd wf Bool.false_ne_true


/-! ## What a word decodes to is well formed -/

theorem familyOf_ne_fallback (w : Word) : familyOf (discriminant w) ≠ .fallback := by
  intro fallback
  cases b27 : bitAt w 27 <;> cases b26 : bitAt w 26 <;>
    simp [familyOf, hits_discriminant, b27, b26] at fallback
  all_goals grind

/-- The halfword and data-processing words have bits 27 and 26 clear. -/
theorem top_bits_of_familyOf {w : Word}
    (family : familyOf (discriminant w) = .halfword ∨ familyOf (discriminant w) = .dataProcessing) :
    bitAt w 27 = false ∧ bitAt w 26 = false := by
  cases b27 : bitAt w 27 <;> cases b26 : bitAt w 26 <;>
    simp [familyOf, hits_discriminant, b27, b26] at family ⊢
  all_goals grind

theorem left_of_familyOf_halfword {w : Word} (family : familyOf (discriminant w) = .halfword) (s : bitAt w 6 = false)
    (h : bitAt w 5 = false) :
    leftBySwapAndMultiply (bitAt w 24) (bitAt w 23) (bitAt w 22) (bitAt w 21) (bitAt w 20) = true := by
  obtain ⟨b27, b26⟩ := top_bits_of_familyOf (.inl family)
  simp [familyOf, hits_discriminant, s, h, b27, b26] at family
  grind [leftBySwapAndMultiply]

theorem left_of_familyOf_dataProcessing {w : Word} (family : familyOf (discriminant w) = .dataProcessing)
    (b24 : bitAt w 24 = true) (b23 : bitAt w 23 = false) (s : bitAt w 20 = false) :
    leftByStatusTransfer (bitAt w 25) (field w 21 2) (field w 0 12) = true := by
  obtain ⟨b27, b26⟩ := top_bits_of_familyOf (.inr family)
  have fields : (field w 21 2).getLsbD 0 = bitAt w 21 ∧ (field w 21 2).getLsbD 1 = bitAt w 22 ∧
      (field w 0 12).getLsbD 4 = bitAt w 4 ∧ (field w 0 12).getLsbD 5 = bitAt w 5 ∧
      (field w 0 12).getLsbD 6 = bitAt w 6 ∧ (field w 0 12).getLsbD 7 = bitAt w 7 := by
    simp only [field, BitVec.getLsbD_extractLsb', bitAt]
    simp
  obtain ⟨b21, b22, b4, b5, b6, b7⟩ := fields
  rw [leftByStatusTransfer_eq_bits, b21, b22, b4, b5, b6, b7]
  cases b25 : bitAt w 25 <;> simp [familyOf, hits_discriminant, s, b23, b24, b25, b27, b26] at family ⊢
  · grind
  · exact family

theorem wellFormed_decodeSingle (c : Cond) (w : Word) : (decodeSingle c w).wellFormed = true := by
  rw [decodeSingle]
  split
  · rw [decodeUserTransfer]
    split <;> rfl
  · next notUser =>
    have plain : plainIndexing (bitAt w 24) (bitAt w 21) = true := by
      rw [plainIndexing]
      cases h : bitAt w 24 <;> simp_all
    split <;> exact plain

theorem wellFormed_decodeBlock (c : Cond) (w : Word) : (decodeBlock c w).wellFormed = true := by
  have top : (field w 0 16).getLsbD 15 = bitAt w 15 := by simp [field, bitAt, -BitVec.getLsbD_eq_getElem]
  rw [decodeBlock]
  split
  · split
    · split
      · next holdsPc => exact top.trans holdsPc
      · next noPc =>
        rw [Instr.wellFormed, top, Bool.eq_false_iff.mpr noPc]
        rfl
    · rfl
  · rw [decodeBlockPlain]
    split <;> rfl

theorem wellFormed_decodeHalfword (c : Cond) {w : Word} (family : familyOf (discriminant w) = .halfword) :
    (decodeHalfword c w).wellFormed = true := by
  rw [decodeHalfword]
  split
  case h_1 s h => exact left_of_familyOf_halfword family s h
  all_goals rfl

theorem wellFormed_decodeDataProcessing (c : Cond) {w : Word} (family : familyOf (discriminant w) = .dataProcessing) :
    (decodeDataProcessing c w).wellFormed = true := by
  rw [decodeDataProcessing]
  split
  case h_17 =>
    have tests : (field w 21 4).toNat = 8 ∨ (field w 21 4).toNat = 9 ∨ (field w 21 4).toNat = 10 ∨
        (field w 21 4).toNat = 11 := by
      have bound := (field w 21 4).isLt
      grind
    have s : bitAt w 20 = false := by
      rw [Bool.eq_false_iff]
      rintro s
      rcases tests with test | test | test | test <;> simp_all
    have bits : (field w 21 4).getLsbD 3 = true ∧ (field w 21 4).getLsbD 2 = false := by
      rcases tests with test | test | test | test <;> rw [BitVec.getLsbD, BitVec.getLsbD, test] <;> decide
    simp only [field, BitVec.getLsbD_extractLsb'] at bits
    exact left_of_familyOf_dataProcessing family bits.1 bits.2 s
  all_goals rfl

theorem wellFormed_decodeFamily (c : Cond) (w : Word) :
    (decodeFamily c w (familyOf (discriminant w))).wellFormed = true := by
  cases family : familyOf (discriminant w)
  case halfword => exact wellFormed_decodeHalfword c family
  case singleTransfer => exact wellFormed_decodeSingle c w
  case blockTransfer => exact wellFormed_decodeBlock c w
  case dataProcessing => exact wellFormed_decodeDataProcessing c family
  case fallback => exact absurd family (familyOf_ne_fallback w)
  case multiply =>
    rw [decodeFamily, decodeMultiply]
    split <;> rfl
  case multiplyLong =>
    rw [decodeFamily, decodeMultiplyLong]
    split <;> rfl
  case swap =>
    rw [decodeFamily, decodeSwap]
    split <;> rfl
  case branch =>
    rw [decodeFamily, decodeBranch]
    split <;> rfl
  case coprocDataTransfer =>
    rw [decodeFamily, decodeCoprocTransfer]
    split <;> rfl
  case coprocRegisterTransfer =>
    rw [decodeFamily, decodeCoprocRegister]
    split <;> rfl
  case msr =>
    rw [decodeFamily, decodeMsr]
    split <;> rfl
  case branchExchange | undefinedGap | coprocDataOperation | softwareInterrupt | mrs => rfl

theorem cond_decodeHalfword (c : Cond) (w : Word) : (decodeHalfword c w).cond = c := by
  rw [decodeHalfword]
  split <;> rfl

theorem cond_decodeSingle (c : Cond) (w : Word) : (decodeSingle c w).cond = c := by
  rw [decodeSingle, decodeUserTransfer]
  split <;> split <;> rfl

theorem cond_decodeBlock (c : Cond) (w : Word) : (decodeBlock c w).cond = c := by
  rw [decodeBlock, decodeBlockPlain]
  split
  · split
    · split <;> rfl
    · rfl
  · split <;> rfl

theorem cond_decodeDataProcessing (c : Cond) (w : Word) : (decodeDataProcessing c w).cond = c := by
  rw [decodeDataProcessing]
  split <;> rfl

theorem cond_decodeFamily (c : Cond) (w : Word) (f : Family) : (decodeFamily c w f).cond = c := by
  cases f
  case halfword => exact cond_decodeHalfword c w
  case singleTransfer => exact cond_decodeSingle c w
  case blockTransfer => exact cond_decodeBlock c w
  case dataProcessing => exact cond_decodeDataProcessing c w
  case multiply =>
    rw [decodeFamily, decodeMultiply]
    split <;> rfl
  case multiplyLong =>
    rw [decodeFamily, decodeMultiplyLong]
    split <;> rfl
  case swap =>
    rw [decodeFamily, decodeSwap]
    split <;> rfl
  case branch =>
    rw [decodeFamily, decodeBranch]
    split <;> rfl
  case coprocDataTransfer =>
    rw [decodeFamily, decodeCoprocTransfer]
    split <;> rfl
  case coprocRegisterTransfer =>
    rw [decodeFamily, decodeCoprocRegister]
    split <;> rfl
  case msr =>
    rw [decodeFamily, decodeMsr]
    split <;> rfl
  case branchExchange | undefinedGap | coprocDataOperation | softwareInterrupt | mrs | fallback => rfl

theorem code_of_condOf {v : BitVec 4} {c : Cond} (h : condOf v = some c) : c.code = v := by
  revert v c
  decide

end Sys2Proof

open Sys2Proof Sys2Proof.Machine

/-- Settles O7: the family of every format is found, and the decoder of the family reads back every field. -/
theorem decodeEncodeAgree : Obligations.DecodeEncodeAgree := by
  unfold Obligations.DecodeEncodeAgree
  intro i rest wf
  simp [decode, wordBytes, decodeWord_encode wf]

/-- Settles O8: the patterns tried before a family take exactly the words its terms leave out, and the last pattern
leaves the fallback no word. -/
theorem everyWordDecodes : Obligations.EveryWordDecodes := by
  unfold Obligations.EveryWordDecodes
  intro w
  cases condition : condOf (field w 28 4) with
  | none => exact .inl ⟨condOf_eq_none.mp condition, decodeWord_of_nv (condOf_eq_none.mp condition)⟩
  | some c =>
    have wf := wellFormed_decodeFamily c w
    refine .inr ⟨_, decodeWord_of_family condition rfl rfl, wf, ?_, ?_⟩
    · rw [cond_decodeFamily, code_of_condOf condition]
    · rintro c' fallback
      rw [fallback] at wf
      exact Bool.false_ne_true wf

/-- Settles O9: no pattern and no field read takes a should-be bit, and MSR reads its mask's bits f and c only. -/
theorem shouldBeFieldsIgnored : Obligations.ShouldBeFieldsIgnored := by
  unfold Obligations.ShouldBeFieldsIgnored
  intro c
  refine ⟨?bx, ?swap, ?mrs, ?msrReg, ?msrImm, fun _ _ _ _ _ _ _ _ => ⟨rfl, rfl⟩, ?halfword⟩
  case bx =>
    intro x rm
    exact decodeWord_of_family (c := c) (f := .branchExchange) (by simp [field_put_above, field_put_same])
      (by simp [familyOf, hits_discriminant]) (by simp [decodeFamily, regAt, field_put_below])
  case swap =>
    intro x rn rd rm
    constructor <;>
    exact decodeWord_of_family (c := c) (f := .swap) (by simp [field_put_above, field_put_same])
      (by simp [familyOf, hits_discriminant]) (by simp [decodeFamily, decodeSwap, regAt, field_put_below, field_put_above])
  case mrs =>
    intro psr x y z rd
    exact decodeWord_of_family (c := c) (f := .mrs) (by simp [field_put_above, field_put_same])
      (by simp [familyOf, hits_discriminant]) (by simp [decodeFamily, regAt, field_put_below, field_put_above])
  case msrReg =>
    intro psr ff cf x y rm
    exact decodeWord_of_family (c := c) (f := .msr) (by simp [field_put_above, field_put_same])
      (by simp [familyOf, hits_discriminant]) (by simp [decodeFamily, decodeMsr, regAt, field_put_below, field_put_above, field_put_same])
  case msrImm =>
    intro psr ff cf x y rot imm8
    exact decodeWord_of_family (c := c) (f := .msr) (by simp [field_put_above, field_put_same])
      (by simp [familyOf, hits_discriminant]) (by simp [decodeFamily, decodeMsr, field_put_below, field_put_above, field_put_same])
  case halfword =>
    intro pre up wback x rn rd rm
    refine ⟨?_, ?_, ?_, ?_⟩ <;>
    exact decodeWord_of_family (c := c) (f := .halfword) (by simp [field_put_above, field_put_same])
      (by simp [familyOf, hits_discriminant]) (by simp [decodeFamily, decodeHalfword, decodeHalfOffset, regAt, field_put_below, field_put_above])

/-- Settles O10. -/
theorem exampleWordsDecode : Obligations.ExampleWordsDecode := by
  unfold Obligations.ExampleWordsDecode
  decide

end

section
/-! PROOFS. The state after reset (10_state R122, 70_reset R1101), the step of a decoded instruction (40_dispatch R410), the
register shifted by an immediate (41_shifter R452), and the addresses of transfers (46_single R750 to R752, 48_block
R850 to R853). -/

namespace Sys2Proof.Machine

theorem mem_allParts_reg (q : PhysReg) : .reg q ∈ allParts := by
  cases q <;> simp [allParts, flagParts, spsrParts]

theorem mem_allParts_flags {p : UnwrittenPart} (h : p ∈ flagParts) : p ∈ allParts := by
  simp [allParts, h]

theorem mem_allParts_spsr {m : Mode} (notUsr : m ≠ .usr) (notSys : m ≠ .sys) {p : UnwrittenPart} (h : p ∈ spsrParts m) :
    p ∈ allParts := by
  cases m <;> simp_all [allParts]

theorem nodup_allParts : allParts.Nodup := by decide

theorem inv_resetWith (completion : Bool) {image : Memory} (wf : Memory.wf image = true) :
    (State.resetWith completion image).Inv where
  wf := wf
  marks := List.nodup_nil
  armPc := fun _ => rfl
  thumbPc := fun thumb => absurd thumb Bool.false_ne_true

section
variable (v : Word) {n : Nat} (c : Bool)

theorem shiftByImm_of_pos (ty : ShiftType) (pos : n ≠ 0) : shiftByImm ty v n c = shiftBy ty v n := by
  rw [shiftByImm.eq_def, if_neg pos]

theorem shiftByImm_lsl : shiftByImm .lsl v n c = ⟨v <<< n, if n = 0 then c else v.getLsbD (32 - n)⟩ := by
  rcases Nat.eq_zero_or_pos n with rfl | pos
  · rw [BitVec.shiftLeft_zero]
    rfl
  · rw [shiftByImm_of_pos v c .lsl (Nat.ne_of_gt pos), if_neg (Nat.ne_of_gt pos)]
    rfl

/-- Amount 0 stands for 32. -/
theorem shiftByImm_lsr :
    shiftByImm .lsr v n c = ⟨v >>> (if n = 0 then 32 else n), v.getLsbD ((if n = 0 then 32 else n) - 1)⟩ := by
  rcases Nat.eq_zero_or_pos n with rfl | pos
  · rw [if_pos rfl, BitVec.ushiftRight_eq_zero (Nat.le_refl 32)]
    rfl
  · rw [shiftByImm_of_pos v c .lsr (Nat.ne_of_gt pos), if_neg (Nat.ne_of_gt pos)]
    rfl

/-- Amount 0 stands for 32. -/
theorem shiftByImm_asr :
    shiftByImm .asr v n c = ⟨v.sshiftRight (if n = 0 then 32 else n), v.getLsbD ((if n = 0 then 32 else n) - 1)⟩ := by
  rcases Nat.eq_zero_or_pos n with rfl | pos
  · rw [if_pos rfl, ← signFill_eq_sshiftRight v (Nat.le_refl 32)]
    rfl
  · rw [shiftByImm_of_pos v c .asr (Nat.ne_of_gt pos), if_neg (Nat.ne_of_gt pos)]
    rfl

theorem shiftByImm_ror (pos : n ≠ 0) (below : n < 32) :
    shiftByImm .ror v n c = ⟨v.rotateRight n, v.getLsbD (n - 1)⟩ := by
  rw [shiftByImm_of_pos v c .ror pos, shiftBy, ror_eq_rotateRight v below]

/-- The rotate through carry (R452). -/
theorem shiftByImm_rrx : shiftByImm .ror v 0 c = ⟨BitVec.ofBool c ++ v.extractLsb' 1 31, v.getLsbD 0⟩ := by
  have value : v >>> 1 ||| put 31 (BitVec.ofBool c) = BitVec.ofBool c ++ v.extractLsb' 1 31 := by
    apply BitVec.eq_of_getLsbD_eq
    intro i hi
    rw [BitVec.getLsbD_or, BitVec.getLsbD_append, BitVec.getLsbD_extractLsb', BitVec.getLsbD_ushiftRight]
    rcases Nat.lt_or_eq_of_le (Nat.le_of_lt_succ hi) with below | rfl
    · have noCarry : (put 31 (BitVec.ofBool c)).getLsbD i = false := bitAt_put_below _ below
      simp [noCarry, below]
    · have carry : (put 31 (BitVec.ofBool c)).getLsbD 31 = c := bitAt_putBit_same c (by decide)
      rw [carry]
      simp
  rw [shiftByImm, if_pos rfl, value]

end

theorem shiftOperand_shiftImm (rm : RegIdx) (ty : ShiftType) (n : BitVec 5) (s : State) :
    shiftOperand (.shiftImm rm ty n) s = shiftByImm ty (readReg s rm) n.toNat s.cpsr.flags.c := rfl

theorem listRegs_empty : listRegs 0#16 = [15] := rfl

theorem listRegs_of_ne {list : BitVec 16} (h : list ≠ 0#16) : listRegs list = namedRegs list := if_neg h

theorem pairwise_listRegs (list : BitVec 16) : (listRegs list).Pairwise (fun p q => p.val < q.val) := by
  rw [listRegs]
  split
  · exact List.pairwise_singleton ..
  · exact (List.pairwise_lt_finRange 16).filter _

theorem mem_listRegs {list : BitVec 16} (h : list ≠ 0#16) (r : RegIdx) :
    r ∈ listRegs list ↔ list.getLsbD r.val = true := by
  rw [listRegs_of_ne h, namedRegs, List.mem_filter]
  exact and_iff_right (List.mem_finRange r)

theorem indexed_right (pre up wback : Bool) (base offset : Word) :
    let x := indexed pre up wback base offset
    x.moved = (if up then base + offset else base - offset) ∧ x.addr = (if pre then x.moved else base) ∧
      (x.wb = true ↔ pre = false ∨ wback = true) := by
  refine ⟨rfl, rfl, ?_⟩
  simp [indexed]

end Sys2Proof.Machine

open Sys2Proof Sys2Proof.Machine

/-- Settles O1. -/
theorem resetState : Obligations.ResetState := by
  unfold Obligations.ResetState
  intro completion image
  exact ⟨rfl, rfl, rfl, rfl, rfl, rfl, rfl, rfl, rfl, rfl, mem_allParts_reg, fun _ => mem_allParts_flags,
    fun m notUsr notSys => ⟨mem_allParts_spsr notUsr notSys (by simp [spsrParts]),
      mem_allParts_spsr notUsr notSys (by simp [spsrParts])⟩, rfl⟩

/-- Settles O2. -/
theorem invariantHoldsAtReset : Obligations.InvariantHoldsAtReset := by
  unfold Obligations.InvariantHoldsAtReset
  refine ⟨inv_resetWith false rfl, rfl, fun completion image wf => ⟨inv_resetWith completion wf, ?_⟩⟩
  exact { inv_resetWith completion wf with marks := nodup_allParts }

/-- Settles O4. -/
theorem stepRunsDecodedInstruction : Obligations.StepRunsDecodedInstruction := by
  unfold Obligations.StepRunsDecodedInstruction
  intro s i noFault arm _ decodes
  have word : decodeWord (fetchWord s) = .ok i := by
    simp only [decode] at decodes
    split at decodes
    · next j read =>
      rw [fetchWord, readWord, read]
      simp_all
    · cases decodes
  rw [step_of_arm noFault arm, executeWord, word]

/-- Settles O19, shift type by shift type. -/
theorem immediateShiftOperand : Obligations.ImmediateShiftOperand := by
  unfold Obligations.ImmediateShiftOperand
  intro rm n s
  have zero : n = 0#5 ↔ n.toNat = 0 := BitVec.toNat_inj (y := 0#5) |>.symm
  simp only [shiftOperand_shiftImm, ne_eq, zero]
  refine ⟨shiftByImm_lsl .., shiftByImm_lsr .., shiftByImm_asr .., fun pos => shiftByImm_ror _ _ pos n.isLt,
    fun none => ?_⟩
  rw [none, shiftByImm_rrx]

/-- Settles O40. -/
theorem transferAddresses : Obligations.TransferAddresses := by
  unfold Obligations.TransferAddresses
  intro pre up wback rn s
  refine ⟨fun off => indexed_right .., fun off => indexed_right .., fun imm12 => ?_, fun _ _ _ => rfl, fun imm8 => ?_,
    fun _ => rfl, readReg_pc s⟩
  · exact BitVec.toNat_setWidth_of_le (by decide)
  · exact BitVec.toNat_setWidth_of_le (by decide)

/-- Settles O45. -/
theorem blockListsAndAddresses : Obligations.BlockListsAndAddresses := by
  unfold Obligations.BlockListsAndAddresses
  refine ⟨fun list => ⟨pairwise_listRegs list, fun named => ⟨mem_listRegs named, ?_⟩, fun empty => ?_⟩,
    fun base span => ⟨rfl, rfl, rfl, rfl, rfl, rfl⟩, fun start k => rfl⟩
  · rw [listSpan, if_neg named, listRegs_of_ne named]
  · subst empty
    exact ⟨rfl, rfl⟩

end

section
/-! PROOFS. Two statements about marks that fail: they quantify over every term, and an exception return `.ldmRet` whose list
lacks R15, which stands for no word, loads its registers and steps without restoring the CPSR (48_block R880). -/

namespace Sys2Proof.Machine

/-- LDMIA r0, {r0}^ as a return: its list lacks R15. -/
def returnWithoutPc : Instr := .ldmRet .al false true false 0 1#16

/-- Supervisor mode under ARM_COMPLETION, where `marks` hold no value. -/
def supervisor (marks : List UnwrittenPart) : State := { State.resetWith true [] with unwritten := marks }

theorem ready_returnWithoutPc (marks : List UnwrittenPart) : Ready returnWithoutPc (supervisor marks) where
  decided := fun _ read => absurd read List.not_mem_nil
  passes := rfl
  noHazard := fun hazard => absurd hazard Bool.false_ne_true

end Sys2Proof.Machine

open Sys2Proof Sys2Proof.Machine

/-- Refutes O58: in Supervisor mode with the saved flags unwritten, `.ldmRet` with the list {r0} completes, and so it does
with every part written, though it is said to depend on the saved status. -/
theorem not_unwrittenReads : ¬ Obligations.UnwrittenReads := by
  unfold Obligations.UnwrittenReads
  intro claim
  obtain ⟨-, faults, -⟩ := claim returnWithoutPc (supervisor [.spsrFlags .svc]) (ready_returnWithoutPc _)
  have unwritten : ¬ Written returnWithoutPc (supervisor [.spsrFlags .svc]) := fun written =>
    written (.spsrFlags .svc) (by decide) (by decide)
  have completes : ∃ t, exec returnWithoutPc (supervisor []) = .next t := ⟨_, rfl⟩
  obtain ⟨p, -, -, fault⟩ := faults unwritten (.inl completes)
  have steps : ∃ t, exec returnWithoutPc (supervisor [.spsrFlags .svc]) = .next t := ⟨_, rfl⟩
  obtain ⟨t, next⟩ := steps
  exact absurd (next.symm.trans fault) (by simp)

/-- Refutes O59: `.ldmRet` with the list {r0} completes and leaves N unwritten, though it is said to give all four flags a
value. -/
theorem not_marksFollowWrites : ¬ Obligations.MarksFollowWrites := by
  unfold Obligations.MarksFollowWrites
  intro claim
  have steps : ∃ t, exec returnWithoutPc (supervisor [.flagN]) = .next t ∧ .flagN ∈ t.unwritten := ⟨_, rfl, by decide⟩
  obtain ⟨t, next, marked⟩ := steps
  obtain ⟨-, unmarked⟩ | ⟨m, noEntry, -⟩ := (claim _ _ _ next rfl .flagN).mp marked
  · exact unmarked (by decide)
  · cases noEntry

end

section
/-! PROOFS. The normal form of a handler (60_exceptions R1020): first the checks that the word, the mode and the setting
decide, then that of the parts it depends on, then its effect, in which only a computed value or the prefetched words can
still fault. -/

namespace Sys2Proof.Machine

/-! ## The checks that the word, the mode and the setting decide -/

/-- Those of the form of an instruction; that of its class, `ownChecks`, comes before them. -/
def formChecks (i : Instr) (s : State) : List (Bool × Fault) :=
  match i with
  | .and _ sf rn rd op2 | .eor _ sf rn rd op2 | .sub _ sf rn rd op2 | .rsb _ sf rn rd op2 | .add _ sf rn rd op2
  | .adc _ sf rn rd op2 | .sbc _ sf rn rd op2 | .rsc _ sf rn rd op2 | .orr _ sf rn rd op2 | .mov _ sf rn rd op2
  | .bic _ sf rn rd op2 | .mvn _ sf rn rd op2 => resultChecks sf rn rd op2 s
  | .tst _ rn _ op2 | .teq _ rn _ op2 | .cmp _ rn _ op2 | .cmn _ rn _ op2 =>
    [(pcInRegShift [rn] op2, .unpredictable 460)]
  | .mul _ _ _ _ rs rm => [(rm == 15 || rs == 15, .unpredictable 604)]
  | .mla _ _ _ rn rs rm => [(rm == 15 || rs == 15 || rn == 15, .unpredictable 604)]
  | .umull _ _ rdHi rdLo rs rm | .umlal _ _ rdHi rdLo rs rm | .smull _ _ rdHi rdLo rs rm
  | .smlal _ _ rdHi rdLo rs rm => [(longMultiplyFault rdHi rdLo rs rm, .unpredictable 617)]
  | .swp _ rn rd rm | .swpb _ rn rd rm => [(swapFault rn rd rm, .unpredictable 833)]
  | .ldr _ pre _ wback rn _ off | .ldrb _ pre _ wback rn _ off | .str _ pre _ wback rn _ off
  | .strb _ pre _ wback rn _ off => singleChecks pre wback rn off
  | .ldrt _ _ rn _ off | .ldrbt _ _ rn _ off | .strt _ _ rn _ off | .strbt _ _ rn _ off =>
    singleChecks false true rn off
  | .ldrh _ pre _ wback rn _ off | .ldrsb _ pre _ wback rn _ off | .ldrsh _ pre _ wback rn _ off
  | .strh _ pre _ wback rn _ off => halfwordChecks pre wback rn off
  | .ldmia _ _ rn _ | .ldmib _ _ rn _ | .ldmda _ _ rn _ | .ldmdb _ _ rn _ | .stmia _ _ rn _ | .stmib _ _ rn _
  | .stmda _ _ rn _ | .stmdb _ _ rn _ => [baseCheck rn]
  | .stmUser _ _ _ wback rn _ => userBankChecks wback rn s
  | .ldmUser _ _ _ wback rn list => if list = 0#16 then ldmRetChecks rn s else userBankChecks wback rn s
  | .ldmRet _ _ _ _ rn _ => ldmRetChecks rn s
  | .mrs _ psr _ => [spsrCheck psr s]
  | .msrReg _ psr _ _ rm => [spsrCheck psr s, (rm == 15, .unpredictable 662)]
  | .msrImm _ psr _ _ _ _ => [spsrCheck psr s]
  | .undefHalfword .. | .undefSignedStore .. => [(!s.armCompletion, .undefined .halfword)]
  | .undefGap .. => [(!s.armCompletion, .undefined .undefinedGap)]
  | .undefTest .. => [(!s.armCompletion, .undefined .dataProcessing)]
  | .b .. | .bl .. | .bx .. | .swi .. | .ldc .. | .stc .. | .cdp .. | .mcr .. | .mrc .. | .fallback .. => []

/-- The checks that come before those of what an instruction depends on. -/
def wordChecks (i : Instr) (s : State) : List (Bool × Fault) := ownChecks i s ++ formChecks i s

/-! ## The effect behind every check of the word and of the marks -/

/-- A result opcode; the return form restores the saved status, which is there and holds a value. -/
def resultCore (sf : Bool) (rd : RegIdx) (given : List UnwrittenPart) (out : Word × Flags) (s : State) : Result :=
  if sf = true ∧ rd = 15 then resumeAt out.1 (psrParts .spsr s) s else finishResult sf rd given out s

/-- A result opcode that reads Rn. -/
def dataCore (kind : AluKind) (sf : Bool) (rn rd : RegIdx) (op2 : Operand2) (f : Word → Shifted → Flags → Word × Flags)
    (s : State) : Result :=
  resultCore sf rd (kind.gives (carryKept op2 s)) (f (readReg s rn) (shiftOperand op2 s) s.cpsr.flags) s

/-- MOV and MVN. -/
def moveCore (sf : Bool) (rd : RegIdx) (op2 : Operand2) (f : Shifted → Flags → Word × Flags) (s : State) : Result :=
  resultCore sf rd (AluKind.logical.gives (carryKept op2 s)) (f (shiftOperand op2 s) s.cpsr.flags) s

/-- A test opcode. -/
def testCore (kind : AluKind) (rn : RegIdx) (op2 : Operand2) (f : Word → Shifted → Flags → Word × Flags) (s : State) :
    Result :=
  .next (stepPc (setFlags (kind.gives (carryKept op2 s)) (f (readReg s rn) (shiftOperand op2 s) s.cpsr.flags).2 s))

/-- A long multiply. -/
def longCore (a sf : Bool) (rdHi rdLo rs rm : RegIdx) (product : Word → Word → BitVec 64) (s : State) : Result :=
  finishLongMultiply sf rdHi rdLo
    (product (readReg s rm) (readReg s rs) + if a then accumulator rdHi rdLo s else 0#64) s

/-- A single load. -/
def loadCore (read : Memory → Word → Word) (pre up wback : Bool) (rn rd : RegIdx) (off : Offset) (s : State) : Result :=
  finishLoad rn rd (singleAddress pre up wback rn off s) (read s.mem (singleAddress pre up wback rn off s).addr) s

/-- A single store of a word or a byte. -/
def storeCore (align : Word → Word) (bytes : Word → List Byte) (pre up wback : Bool) (rn rd : RegIdx) (off : Offset)
    (s : State) : Result :=
  finishStore rn (singleAddress pre up wback rn off s) (align (singleAddress pre up wback rn off s).addr)
    (bytes (storeValue s rd)) s

/-- A halfword or signed load. -/
def halfLoadCore (read : Memory → Word → Word) (pre up wback : Bool) (rn rd : RegIdx) (off : HalfOffset) (s : State) :
    Result :=
  finishLoad rn rd (halfwordAddress pre up wback rn off s) (read s.mem (halfwordAddress pre up wback rn off s).addr) s

/-- STRH. -/
def halfStoreCore (pre up wback : Bool) (rn rd : RegIdx) (off : HalfOffset) (s : State) : Result :=
  finishStore rn (halfwordAddress pre up wback rn off s) (alignHalf (halfwordAddress pre up wback rn off s).addr)
    (halfBytes ((storeValue s rd).extractLsb' 0 16)) s

/-- A swap. -/
def swapCore (rn rd rm : RegIdx) (read : Memory → Word → Word) (align : Word → Word) (bytes : Word → List Byte)
    (s : State) : Result :=
  store [(align (readReg s rn), bytes (readReg s rm))] s fun t => stepPc (writeReg rd (read s.mem (readReg s rn)) t)

/-- An LDM exception return; a list without R15, which no word has, only loads. -/
def ldmRetCore (pre up wback : Bool) (rn : RegIdx) (list : BitVec 16) (s : State) : Result :=
  match ldmPc pre up rn list s with
  | some v => resumeAt v (psrParts .spsr s) (afterLoads false pre up wback rn list s)
  | none => .next (stepPc (afterLoads false pre up wback rn list s))

/-- An MSR of a value. -/
def msrCore (psr : PsrSel) (fields : MsrFields) (v : Word) (s : State) : Result :=
  checked (msrValueChecks psr fields v s) (.next (msrEffect psr fields v s))

/-- The effect of an instruction whose checks pass. -/
def core (i : Instr) (s : State) : Result :=
  match i with
  | .and _ sf rn rd op2 => dataCore .logical sf rn rd op2 andFn s
  | .eor _ sf rn rd op2 => dataCore .logical sf rn rd op2 eorFn s
  | .sub _ sf rn rd op2 => dataCore .arithmetic sf rn rd op2 subFn s
  | .rsb _ sf rn rd op2 => dataCore .arithmetic sf rn rd op2 rsbFn s
  | .add _ sf rn rd op2 => dataCore .arithmetic sf rn rd op2 addFn s
  | .adc _ sf rn rd op2 => dataCore .carryIn sf rn rd op2 adcFn s
  | .sbc _ sf rn rd op2 => dataCore .carryIn sf rn rd op2 sbcFn s
  | .rsc _ sf rn rd op2 => dataCore .carryIn sf rn rd op2 rscFn s
  | .tst _ rn _ op2 => testCore .logical rn op2 tstFn s
  | .teq _ rn _ op2 => testCore .logical rn op2 teqFn s
  | .cmp _ rn _ op2 => testCore .arithmetic rn op2 cmpFn s
  | .cmn _ rn _ op2 => testCore .arithmetic rn op2 cmnFn s
  | .orr _ sf rn rd op2 => dataCore .logical sf rn rd op2 orrFn s
  | .mov _ sf _ rd op2 => moveCore sf rd op2 movFn s
  | .bic _ sf rn rd op2 => dataCore .logical sf rn rd op2 bicFn s
  | .mvn _ sf _ rd op2 => moveCore sf rd op2 mvnFn s
  | .mul _ sf rd _ rs rm => finishMultiply sf rd (readReg s rm * readReg s rs) s
  | .mla _ sf rd rn rs rm => finishMultiply sf rd (readReg s rm * readReg s rs + readReg s rn) s
  | .umull _ sf rdHi rdLo rs rm => longCore false sf rdHi rdLo rs rm unsignedProduct s
  | .umlal _ sf rdHi rdLo rs rm => longCore true sf rdHi rdLo rs rm unsignedProduct s
  | .smull _ sf rdHi rdLo rs rm => longCore false sf rdHi rdLo rs rm signedProduct s
  | .smlal _ sf rdHi rdLo rs rm => longCore true sf rdHi rdLo rs rm signedProduct s
  | .swp _ rn rd rm => swapCore rn rd rm readRotateWord alignWord wordBytes s
  | .swpb _ rn rd rm => swapCore rn rd rm readZeroByte id lowByte s
  | .b _ off => writePc (branchTarget off s) s
  | .bl _ off => writePc (branchTarget off s) (writeReg 14 (s.pc + 4#32) s)
  | .bx _ rm => branchExchange (readReg s rm) s
  | .ldr _ pre up wback rn rd off => loadCore readRotateWord pre up wback rn rd off s
  | .ldrb _ pre up wback rn rd off => loadCore readZeroByte pre up wback rn rd off s
  | .ldrt _ up rn rd off => loadCore readRotateWord false up true rn rd off s
  | .ldrbt _ up rn rd off => loadCore readZeroByte false up true rn rd off s
  | .str _ pre up wback rn rd off => storeCore alignWord wordBytes pre up wback rn rd off s
  | .strb _ pre up wback rn rd off => storeCore id lowByte pre up wback rn rd off s
  | .strt _ up rn rd off => storeCore alignWord wordBytes false up true rn rd off s
  | .strbt _ up rn rd off => storeCore id lowByte false up true rn rd off s
  | .ldrh _ pre up wback rn rd off => halfLoadCore readRotateHalf pre up wback rn rd off s
  | .ldrsb _ pre up wback rn rd off => halfLoadCore readSignedByte pre up wback rn rd off s
  | .ldrsh _ pre up wback rn rd off => halfLoadCore readSignedHalf pre up wback rn rd off s
  | .strh _ pre up wback rn rd off => halfStoreCore pre up wback rn rd off s
  | .ldmia _ wback rn list => finishLdm false true wback rn list s
  | .ldmib _ wback rn list => finishLdm true true wback rn list s
  | .ldmda _ wback rn list => finishLdm false false wback rn list s
  | .ldmdb _ wback rn list => finishLdm true false wback rn list s
  | .stmia _ wback rn list => finishStm false false true wback rn list s
  | .stmib _ wback rn list => finishStm false true true wback rn list s
  | .stmda _ wback rn list => finishStm false false false wback rn list s
  | .stmdb _ wback rn list => finishStm false true false wback rn list s
  | .stmUser _ pre up wback rn list => finishStm true pre up wback rn list s
  | .ldmRet _ pre up wback rn list => ldmRetCore pre up wback rn list s
  | .ldmUser _ pre up wback rn list =>
    if list = 0#16 then ldmRetCore pre up wback rn list s else finishLdmUser pre up rn list s
  | .mrs _ psr rd => writeResult rd (mrsValue psr s) (afterDraw s)
  | .msrReg _ psr fields _ rm => msrCore psr fields (readReg s rm) s
  | .msrImm _ psr fields _ rot imm8 => msrCore psr fields (rotatedImm rot imm8) s
  | .swi .. => takeSynchronous .swi s
  | .undefHalfword .. | .undefSignedStore .. | .undefGap .. | .undefTest .. | .ldc .. | .stc .. | .cdp .. | .mcr ..
  | .mrc .. | .fallback .. => takeSynchronous .undefined s

/-! ## Registers loaded: what holds through register writes holds through the loads -/

/-- The registers loaded one after another in one view; R15, which no view writes, is passed over. -/
theorem loadRegs_cons (user : Bool) (rv : RegIdx × Word) (rest : List (RegIdx × Word)) (s : State) :
    loadRegs user (rv :: rest) s =
      loadRegs user rest (writeRegIn (if user then .usr else s.cpsr.mode) rv.1 rv.2 s) := by
  refine congrArg (loadRegs user rest) ?_
  simp only
  split
  · rename_i pc
    rw [pc, writeRegIn_r15]
  · cases user <;> rfl

theorem loadRegs_induction {P : State → Prop} (step : ∀ m r v t, P t → P (writeRegIn m r v t)) (user : Bool)
    (values : List (RegIdx × Word)) {s : State} (start : P s) : P (loadRegs user values s) := by
  induction values generalizing s with
  | nil => exact start
  | cons rv rest ih =>
    rw [loadRegs_cons]
    exact ih (step _ _ _ _ start)

theorem afterLoads_induction {P : State → Prop} (step : ∀ m r v t, P t → P (writeRegIn m r v t)) (user pre up wback : Bool)
    (rn : RegIdx) (list : BitVec 16) {s : State} (start : P s) : P (afterLoads user pre up wback rn list s) := by
  refine loadRegs_induction step _ _ ?_
  rw [ldmWriteback]
  split
  · exact step _ _ _ _ start
  · exact start

/-- No register write touches the marks of a saved status. -/
theorem mem_unwritten_writeRegIn_of_not_reg {p : UnwrittenPart} (notReg : ∀ q, p ≠ .reg q) (m : Mode) (r : RegIdx) (v : Word)
    (s : State) : p ∈ (writeRegIn m r v s).unwritten ↔ p ∈ s.unwritten := by
  have outside : p ∉ regPart m r := by
    rintro member
    obtain ⟨q, -, rfl⟩ := List.mem_map.1 member
    exact notReg q rfl
  simp [outside]

/-- What an exception return reads besides the registers is as it was before the loads. -/
theorem returnReads_afterLoads (user pre up wback : Bool) (rn : RegIdx) (list : BitVec 16) (s : State) :
    let t := afterLoads user pre up wback rn list s
    t.cpsr = s.cpsr ∧ (∀ m, spsrOf m t = spsrOf m s) ∧
      ∀ m, unwrittenChecks (spsrParts m) t = unwrittenChecks (spsrParts m) s := by
  refine afterLoads_induction (P := fun t => t.cpsr = s.cpsr ∧ (∀ m, spsrOf m t = spsrOf m s) ∧
    ∀ m, unwrittenChecks (spsrParts m) t = unwrittenChecks (spsrParts m) s) ?_ user pre up wback rn list
    ⟨rfl, fun _ => rfl, fun _ => rfl⟩
  rintro m r v t ⟨cpsr, spsr, marks⟩
  refine ⟨(writeRegIn_cpsr ..).trans cpsr, fun n => (spsrOf_writeRegIn ..).trans (spsr n), fun n => ?_⟩
  rw [← marks n]
  simp [unwrittenChecks, spsrParts, -writeRegIn_unwritten, mem_unwritten_writeRegIn_of_not_reg]

/-! ## The normal form -/

theorem unwrittenChecks_append (ps qs : List UnwrittenPart) (s : State) :
    unwrittenChecks (ps ++ qs) s = unwrittenChecks ps s ++ unwrittenChecks qs s :=
  List.map_append

/-- A return where the mode has a saved status reads it before it resumes. -/
theorem exceptionReturn_of_hasSpsr {target : Word} {s : State} (h : s.cpsr.mode.hasSpsr = true) :
    exceptionReturn target s =
      checked (unwrittenChecks (spsrParts s.cpsr.mode) s) (resumeAt target (psrParts .spsr s) s) := by
  obtain ⟨p, saved⟩ := Option.isSome_iff_exists.1 ((spsrOf_isSome s.cpsr.mode s).trans h)
  simp only [exceptionReturn, psrParts, saved, Option.getD_some]

/-- Two ways to go on after checks need to agree only where the checks pass. -/
theorem checked_congr {cs : List (Bool × Fault)} {k k' : Result} (h : (∀ c ∈ cs, c.1 = false) → k = k') :
    checked cs k = checked cs k' := by
  induction cs with
  | nil => exact h (by simp)
  | cons c rest ih =>
    obtain ⟨holds, f⟩ := c
    cases holds with
    | true => rfl
    | false => exact ih fun passes => h (by simpa using passes)

/-- A result opcode ends as `finishResult` does: in the return form it reads the saved status first. -/
theorem finishResult_eq_resultCore {sf : Bool} {rn rd : RegIdx} {op2 : Operand2} {s : State} (given : List UnwrittenPart)
    (out : Word × Flags) (pass : ∀ c ∈ resultChecks sf rn rd op2 s, c.1 = false) :
    finishResult sf rd given out s =
      checked (unwrittenChecks (returnParts sf rd s) s) (resultCore sf rd given out s) := by
  by_cases returns : sf = true ∧ rd = 15
  · obtain ⟨rfl, rfl⟩ := returns
    have hasSpsr : s.cpsr.mode.hasSpsr = true := by simp_all [resultChecks]
    simp [finishResult_return, exceptionReturn_of_hasSpsr hasSpsr, returnParts, resultCore]
  · simp [returnParts, resultCore, returns]

theorem dataHandler_eq (kind : AluKind) (sf : Bool) (rn rd : RegIdx) (op2 : Operand2) (extra : State → List (Bool × Fault))
    (f : Word → Shifted → Flags → Word × Flags) (s : State) :
    dataHandler kind sf rn rd op2 extra f s =
      checked (extra s ++ resultChecks sf rn rd op2 s)
        (checked (unwrittenChecks (regParts [rn] s ++ operand2Reads op2 s ++ kind.reads ++ returnParts sf rd s) s)
          (dataCore kind sf rn rd op2 f s)) := by
  rw [dataHandler, checked_append _ (unwrittenChecks _ s), operand2Parts_eq_operand2Reads, unwrittenChecks_append _ (returnParts ..)]
  refine checked_congr fun pass => ?_
  rw [checked_append _ (unwrittenChecks (returnParts ..) s), dataCore,
    finishResult_eq_resultCore _ _ fun c hc => pass c (List.mem_append_right _ hc)]

theorem moveHandler_eq (sf : Bool) (rn rd : RegIdx) (op2 : Operand2) (extra : State → List (Bool × Fault))
    (f : Shifted → Flags → Word × Flags) (s : State) :
    moveHandler sf rn rd op2 extra f s =
      checked (extra s ++ resultChecks sf rn rd op2 s)
        (checked (unwrittenChecks (operand2Reads op2 s ++ returnParts sf rd s) s) (moveCore sf rd op2 f s)) := by
  rw [moveHandler, checked_append _ (unwrittenChecks _ s), operand2Parts_eq_operand2Reads, unwrittenChecks_append _ (returnParts ..)]
  refine checked_congr fun pass => ?_
  rw [checked_append _ (unwrittenChecks (returnParts ..) s), moveCore,
    finishResult_eq_resultCore _ _ fun c hc => pass c (List.mem_append_right _ hc)]

/-- An LDM exception return whose list holds R15 reads the saved status before it resumes. -/
theorem ldmReturn_eq {pre up wback : Bool} {rn : RegIdx} {list : BitVec 16} {s : State}
    (loadsPc : (ldmPc pre up rn list s).isSome = true) (reads : List UnwrittenPart) :
    checked (ldmRetChecks rn s ++ unwrittenChecks reads s) (finishLdmRet pre up wback rn list s) =
      checked (ldmRetChecks rn s)
        (checked (unwrittenChecks (reads ++ spsrParts s.cpsr.mode) s) (ldmRetCore pre up wback rn list s)) := by
  rw [checked_append, unwrittenChecks_append, checked_append (unwrittenChecks reads s)]
  refine checked_congr fun pass => congrArg _ ?_
  obtain ⟨v, loaded⟩ := Option.isSome_iff_exists.1 loadsPc
  obtain ⟨cpsr, spsr, marks⟩ := returnReads_afterLoads false pre up wback rn list s
  have hasSpsr : s.cpsr.mode.hasSpsr = true := by simp_all [ldmRetChecks]
  simp only [finishLdmRet, ldmRetCore, loaded]
  rw [exceptionReturn_of_hasSpsr (cpsr ▸ hasSpsr), cpsr, marks]
  simp only [psrParts, cpsr, spsr]

/-- The value of R15 is loaded exactly where the effective list holds R15. -/
theorem isSome_ldmPc (pre up : Bool) (rn : RegIdx) (list : BitVec 16) (s : State) :
    (ldmPc pre up rn list s).isSome = true ↔ 15 ∈ listRegs list := by
  simp only [ldmPc, loadedPc, ldmValues, blockSlots, Option.isSome_map, List.find?_isSome, List.mem_map, List.mem_mapIdx,
    beq_iff_eq]
  constructor
  · rintro ⟨_, ⟨_, ⟨k, inside, rfl⟩, rfl⟩, pc⟩
    exact List.mem_of_getElem pc
  · intro member
    obtain ⟨k, inside, pc⟩ := List.getElem_of_mem member
    exact ⟨_, ⟨_, ⟨k, inside, rfl⟩, rfl⟩, pc⟩

theorem pc_mem_listRegs {list : BitVec 16} : 15 ∈ listRegs list ↔ list = 0#16 ∨ list.getLsbD 15 = true := by
  rw [listRegs]
  split
  · simp_all
  · simp_all [List.mem_filter]

/-- The exception return of a word: its list holds R15 (48_block R880). A term without R15 stands for no word. -/
def returnsWithPc : Instr → Bool
  | .ldmRet _ _ _ _ _ list => list == 0#16 || list.getLsbD 15
  | _ => true

theorem returnsWithPc_of_wellFormed {i : Instr} (h : i.wellFormed = true) : returnsWithPc i = true := by
  cases i
  case ldmRet => exact Bool.or_eq_true_iff.2 (.inr h)
  all_goals rfl

theorem stmParts_current (rn : RegIdx) (list : BitVec 16) (s : State) :
    stmParts false rn list s = regParts (rn :: listRegs list) s := by
  simp [stmParts, regParts]

theorem unimplementedOrTrap_eq_checked (what : UnimplementedClass) (e : Exc) (s : State) :
    unimplementedOrTrap what e s = checked [unimplementedCheck what s] (takeSynchronous e s) := by
  rw [unimplementedOrTrap, unimplementedCheck, checked_cons]
  cases s.armCompletion <;> rfl

theorem undefinedEncoding_eq_checked (family : Family) (s : State) :
    undefinedEncoding family s =
      checked [(!s.armCompletion, .undefined family)] (takeSynchronous .undefined s) := by
  rw [undefinedEncoding, checked_cons]
  cases s.armCompletion <;> rfl

/-- An instruction checks its word, then what it depends on, and then has its effect. -/
theorem handler_eq_core {i : Instr} (h : returnsWithPc i = true) (s : State) :
    handler i s = checked (wordChecks i s) (checked (unwrittenChecks (dependsOn i s) s) (core i s)) := by
  have readsNoCarry (ps qs : List UnwrittenPart) : ps ++ qs = ps ++ [] ++ qs := by rw [List.append_nil]
  cases i
  case and | eor | orr | bic | add | sub | rsb =>
    rw [dependsOn, readsNoCarry (_ ++ _)]
    exact dataHandler_eq ..
  case adc | sbc | rsc => exact dataHandler_eq ..
  case mov | mvn => exact moveHandler_eq ..
  case tst | teq | cmp | cmn =>
    rw [dependsOn, ← operand2Parts_eq_operand2Reads, ← checked_append]
    rfl
  case ldr | ldrb | ldrt | ldrbt | str | strb | strt | strbt =>
    rw [dependsOn, ← offsetParts_eq_offsetReads, ← checked_append]
    rfl
  case mrs =>
    rw [dependsOn_mrs, ← checked_append]
    rfl
  case msrReg =>
    rw [core, msrCore, ← checked_append, ← checked_append]
    rfl
  case msrImm =>
    rw [core, msrCore, ← checked_append, ← checked_append]
    rfl
  case stmia | stmib | stmda | stmdb =>
    rw [dependsOn, ← stmParts_current, ← checked_append]
    rfl
  case ldmRet pre up wback rn list =>
    have loadsPc : (ldmPc pre up rn list s).isSome = true := by
      rw [isSome_ldmPc, pc_mem_listRegs]
      simpa [returnsWithPc] using h
    exact ldmReturn_eq loadsPc _
  case ldmUser pre up wback rn list =>
    by_cases empty : list = 0#16
    · subst empty
      exact ldmReturn_eq ((isSome_ldmPc ..).2 (List.mem_singleton_self _)) _
    · simp only [handler, core, wordChecks, formChecks, dependsOn, if_neg empty, List.append_nil]
      exact checked_append ..
  case mul | mla | umull | umlal | smull | smlal | swp | swpb | ldrh | ldrsb | ldrsh | strh | ldmia | ldmib | ldmda | ldmdb | stmUser | b | bl | bx =>
    rw [← checked_append]
    rfl
  case swi | ldc | stc | cdp | mcr | mrc | fallback => exact unimplementedOrTrap_eq_checked ..
  case undefHalfword | undefSignedStore | undefGap | undefTest => exact undefinedEncoding_eq_checked ..

/-! ## An instruction that runs -/

@[simp] theorem wordChecks_clearHazard (i : Instr) (s : State) : wordChecks i (clearHazard s) = wordChecks i s := by
  cases i <;> rfl

@[simp] theorem dependsOn_clearHazard (i : Instr) (s : State) : dependsOn i (clearHazard s) = dependsOn i s := by
  cases i <;> rfl

/-- A ready instruction whose word passes, and which depends on written parts only, has its effect. -/
theorem exec_of_core {i : Instr} {s : State} (ready : Ready i s) (pass : ∀ c ∈ wordChecks i s, c.1 = false)
    (written : Written i s) (h : returnsWithPc i = true) : exec i s = core i (clearHazard s) := by
  rw [exec_ready ready, handler_eq_core h, wordChecks_clearHazard, dependsOn_clearHazard, unwrittenChecks_clearHazard,
    checked_pass _ pass, checked_pass _ (unwrittenChecks_pass.2 written)]

/-- A ready instruction whose word does not pass faults before anything else is looked at. -/
theorem exec_of_wordFault {i : Instr} {s : State} {f : Fault} (ready : Ready i s) (h : returnsWithPc i = true)
    (fault : ∀ k, checked (wordChecks i s) k = .fault f) : exec i s = .fault f := by
  rw [exec_ready ready, handler_eq_core h, wordChecks_clearHazard, fault]

/-- The two ways an instruction gets a next state (40_dispatch R410): its condition fails, or its checks pass and its effect
answers it. -/
theorem exec_eq_next_core {i : Instr} {s t : State} (h : returnsWithPc i = true) (answers : exec i s = .next t) :
    (condPass i.cond s.cpsr.flags = false ∧ t = stepPc (clearHazard s)) ∨
      (condPass i.cond s.cpsr.flags = true ∧ (∀ c ∈ wordChecks i s, c.1 = false) ∧ Written i s ∧
        core i (clearHazard s) = .next t) := by
  obtain ⟨-, failed | ⟨passes, runs⟩⟩ := exec_eq_next answers
  · exact .inl failed
  · rw [handler_eq_core h] at runs
    obtain ⟨word, runs⟩ := checked_eq_next runs
    obtain ⟨written, runs⟩ := checked_eq_next runs
    rw [wordChecks_clearHazard] at word
    rw [unwrittenChecks_pass, dependsOn_clearHazard] at written
    exact .inr ⟨passes, word, written, runs⟩

end Sys2Proof.Machine
end

section
/-! PROOFS. What the effect of an instruction can change: most compute, into registers of the current view, the flags, memory
and the pc; the others are a BX to Thumb state, an MSR, an exception entry, a return and a user-bank LDM. -/

namespace Sys2Proof.Machine

/-! ## States that differ by a computation -/

/-- From `s` to `t` only registers of the current view, the flags, memory, the pc, marks and the count of draws differ. -/
structure Computes (s t : State) : Prop where
  status : t.cpsr = { s.cpsr with flags := t.cpsr.flags }
  spsr : ∀ m, spsrOf m t = spsrOf m s
  regs : ∀ p, (∀ r, view s.cpsr.mode r ≠ some p) → t.regs.get p = s.regs.get p
  mem : Memory.wf s.mem = true → Memory.wf t.mem = true
  hazard : t.ldmUserHazard = s.ldmUserHazard
  fault : t.fault = s.fault
  completion : t.armCompletion = s.armCompletion

theorem Computes.refl (s : State) : Computes s s := ⟨rfl, fun _ => rfl, fun _ _ => rfl, id, rfl, rfl, rfl⟩

theorem Computes.mode {s t : State} (h : Computes s t) : t.cpsr.mode = s.cpsr.mode := by rw [h.status]

theorem Computes.trans {s t u : State} (h : Computes s t) (h' : Computes t u) : Computes s u where
  status := by rw [h'.status, h.status]
  spsr m := (h'.spsr m).trans (h.spsr m)
  regs p outside := (h'.regs p (h.mode ▸ outside)).trans (h.regs p outside)
  mem wf := h'.mem (h.mem wf)
  hazard := h'.hazard.trans h.hazard
  fault := h'.fault.trans h.fault
  completion := h'.completion.trans h.completion

section
variable (s : State)

theorem computes_writeReg (r : RegIdx) (v : Word) : Computes s (writeReg r v s) := by
  refine ⟨by simp, fun m => by simp, fun p outside => ?regs, by simp, by simp, by simp, by simp⟩
  case regs =>
    refine get_writeReg_kept v s fun named => ?_
    obtain ⟨q, -, shown⟩ := mem_physOf.1 named
    exact outside q shown

theorem computes_setFlags (ps : List UnwrittenPart) (f : Flags) : Computes s (setFlags ps f s) :=
  ⟨rfl, fun m => by cases m <;> rfl, fun _ _ => rfl, id, rfl, rfl, rfl⟩

theorem computes_setFlagsIf (sf : Bool) (ps : List UnwrittenPart) (f : Flags) : Computes s (setFlagsIf sf ps f s) := by
  cases sf
  · exact .refl s
  · exact computes_setFlags s ps f

theorem computes_afterDraw : Computes s (afterDraw s) :=
  ⟨rfl, fun m => by cases m <;> rfl, fun _ _ => rfl, id, rfl, rfl, rfl⟩

theorem computes_setPc (v : Word) : Computes s { s with pc := v } :=
  ⟨rfl, fun m => by cases m <;> rfl, fun _ _ => rfl, id, rfl, rfl, rfl⟩

theorem computes_stepPc : Computes s (stepPc s) := computes_setPc s _

theorem computes_storeAll (ws : List (Word × List Byte)) : Computes s { s with mem := storeAll s.mem ws } :=
  ⟨rfl, fun m => by cases m <;> rfl, fun _ _ => rfl, storeAll_wf ws, rfl, rfl, rfl⟩

/-- Loads of the current bank compute. -/
theorem computes_loadRegs (values : List (RegIdx × Word)) : Computes s (loadRegs false values s) := by
  induction values generalizing s with
  | nil => exact .refl s
  | cons rv rest ih =>
    rw [loadRegs_cons]
    exact (computes_writeReg s rv.1 rv.2).trans (ih _)

theorem computes_afterLoads (pre up wback : Bool) (rn : RegIdx) (list : BitVec 16) :
    Computes s (afterLoads false pre up wback rn list s) := by
  refine Computes.trans ?_ (computes_loadRegs _ _)
  rw [ldmWriteback]
  split
  · exact computes_writeReg ..
  · exact .refl s

end

/-! ## The effects -/

/-- The instructions that write flags by a computation, with S = 1 (10_state R107). -/
def SetsFlags (i : Instr) (s : State) : Prop :=
  (∃ d, dataSpec i s = some d ∧ d.sf = true) ∨ (∃ f, testSpec i s = some f) ∨
    (∃ c rd rn rs rm, i = .mul c true rd rn rs rm ∨ i = .mla c true rd rn rs rm) ∨
    ∃ l, longSpec i s = some l ∧ l.sf = true

/-- A next state of a computation: where the pc goes, and which instructions write flags. -/
structure ComputesTo (i : Instr) (s t : State) : Prop where
  computes : Computes s t
  pc : t.pc = s.pc + 4#32 ∨ t.pc.extractLsb' 0 2 = 0#2
  flags : t.cpsr.flags = s.cpsr.flags ∨ SetsFlags i s

/-- What an instruction whose word passes can do to a state. -/
inductive Effect (i : Instr) (s : State) : State → Prop
  | computes {t : State} (h : ComputesTo i s t) : Effect i s t
  | toThumb {c : Cond} {rm : RegIdx} (form : i = .bx c rm) (odd : (readReg s rm).getLsbD 0 = true) :
    Effect i s { s with pc := readReg s rm &&& ~~~1#32, cpsr := { s.cpsr with t := true } }
  | msr {psr : PsrSel} {ff cf : Bool} {v : Word} (spec : msrSpec i s = some (psr, ff, cf, v))
    (valid : ∀ c ∈ msrValueChecks psr ⟨ff, cf⟩ v s, c.1 = false) (hasPsr : (spsrCheck psr s).1 = false) :
    Effect i s (msrEffect psr ⟨ff, cf⟩ v s)
  | enters {e : Exc} (form : savesInto i = some e.mode) (keepsFiq : e.masksFiq = false)
    (completed : s.armCompletion = true) : Effect i s (enterException e (s.pc + 4#32) s)
  | returns {u t : State} {target : Word} (form : returnsFromException i s = true) (completed : s.armCompletion = true)
    (hasSpsr : s.cpsr.mode.hasSpsr = true) (loads : Computes s u)
    (resumes : resumeAt target (psrParts .spsr s) u = .next t) : Effect i s t
  | userLoads {c : Cond} {pre up wback : Bool} {rn : RegIdx} {list : BitVec 16}
    (form : i = .ldmUser c pre up wback rn list) (hasSpsr : s.cpsr.mode.hasSpsr = true) :
    Effect i s (stepPc { afterLoads true pre up false rn list s with ldmUserHazard := true })

section
variable {i : Instr} {s t u : State}

/-- A computation that steps. -/
theorem effect_of_step (h : Computes s u) (pc : u.pc = s.pc)
    (flags : u.cpsr.flags = s.cpsr.flags ∨ SetsFlags i s) : Effect i s (stepPc u) :=
  .computes ⟨h.trans (computes_stepPc u), .inl (congrArg (· + 4#32) pc), flags⟩

/-- A computation that ends in `WritePC`. -/
theorem effect_of_writePc {v : Word} (h : Computes s u) (flags : u.cpsr.flags = s.cpsr.flags ∨ SetsFlags i s)
    (answers : writePc v u = .next t) : Effect i s t := by
  obtain ⟨aligned, rfl⟩ := writePc_eq_next.1 answers
  exact .computes ⟨h.trans (computes_setPc u v), .inr (misaligned_eq_false.1 aligned), flags⟩

/-- A computation that ends in a register or in the pc. -/
theorem effect_of_writeResult {rd : RegIdx} {v : Word} (h : Computes s u) (pc : u.pc = s.pc)
    (flags : u.cpsr.flags = s.cpsr.flags ∨ SetsFlags i s) (answers : writeResult rd v u = .next t) : Effect i s t := by
  obtain ⟨rfl, -, -⟩ | ⟨-, rfl⟩ := writeResult_eq_next.1 answers
  · exact effect_of_writePc h flags (writeResult_pc v u ▸ answers)
  · exact effect_of_step (h.trans (computes_writeReg u rd v)) ((writeReg_pc ..).trans pc)
      (by rwa [writeReg_cpsr])

/-- A result opcode whose word passes. -/
theorem effect_of_resultCore {d : DataSpec} {rn : RegIdx} {op2 : Operand2} {given : List UnwrittenPart}
    {out : Word × Flags} (spec : dataSpec i s = some d)
    (pass : ∀ c ∈ ownChecks i s ++ resultChecks d.sf rn d.rd op2 s, c.1 = false)
    (returns : d.sf = true ∧ d.rd = 15 → returnsFromException i s = true)
    (answers : resultCore d.sf d.rd given out s = .next t) : Effect i s t := by
  have flags : s.cpsr.flags = s.cpsr.flags ∨ SetsFlags i s := .inl rfl
  rw [resultCore] at answers
  split at answers
  case isTrue form =>
    have form' := returns form
    obtain ⟨sf, rd⟩ := form
    have ⟨completed, hasSpsr⟩ : s.armCompletion = true ∧ s.cpsr.mode.hasSpsr = true := by
      have pass := fun c hc => pass c (List.mem_append_right _ hc)
      simp_all [resultChecks]
    exact .returns form' completed hasSpsr (.refl s) answers
  case isFalse form =>
    obtain ⟨-, rfl⟩ | ⟨-, -, jumps⟩ | ⟨rd, sf, -⟩ := finishResult_eq_next answers
    · refine effect_of_step ((computes_writeReg s _ _).trans (computes_setFlagsIf ..)) (by simp) ?_
      cases sf : d.sf with
      | false => exact .inl (by simp)
      | true => exact .inr (.inl ⟨d, spec, sf⟩)
    · exact effect_of_writePc (.refl s) flags jumps
    · exact absurd ⟨sf, rd⟩ form

/-- A test opcode. -/
theorem effect_of_testCore {kind : AluKind} {rn : RegIdx} {op2 : Operand2} {f : Word → Shifted → Flags → Word × Flags}
    {flags : Flags} (spec : testSpec i s = some flags) (answers : testCore kind rn op2 f s = .next t) :
    Effect i s t := by
  cases answers
  exact effect_of_step (computes_setFlags ..) rfl (.inr (.inr (.inl ⟨_, spec⟩)))

/-- MUL or MLA, with S as in the instruction. -/
theorem effect_of_finishMultiply {sf : Bool} {rd : RegIdx} {v : Word} (sets : sf = true → SetsFlags i s)
    (answers : finishMultiply sf rd v s = .next t) : Effect i s t := by
  cases sf with
  | false => exact effect_of_writeResult (.refl s) rfl (.inl rfl) answers
  | true =>
    exact effect_of_writeResult ((computes_setFlags s _ _).trans (computes_afterDraw _)) rfl (.inr (sets rfl)) answers

/-- A long multiply, with S as in the instruction. -/
theorem effect_of_longCore {a sf : Bool} {rdHi rdLo rs rm : RegIdx} {product : Word → Word → BitVec 64}
    (sets : sf = true → SetsFlags i s) (answers : longCore a sf rdHi rdLo rs rm product s = .next t) :
    Effect i s t := by
  have halves (hi lo : Word) : Computes s (writeReg rdHi hi (writeReg rdLo lo s)) :=
    (computes_writeReg s rdLo lo).trans (computes_writeReg _ rdHi hi)
  cases answers
  cases sf with
  | false => exact effect_of_step (halves ..) (by simp) (.inl (by simp))
  | true =>
    exact effect_of_step (((halves ..).trans (computes_setFlags ..)).trans (computes_afterDraw _)) (by simp)
      (.inr (sets rfl))

theorem effect_of_finishLoad {rn rd : RegIdx} {ix : Indexed} {data : Word}
    (answers : finishLoad rn rd ix data s = .next t) : Effect i s t := by
  rw [finishLoad] at answers
  split at answers
  · exact effect_of_writeResult (computes_writeReg ..) (by simp) (.inl (by simp)) answers
  · exact effect_of_writeResult (.refl s) rfl (.inl rfl) answers

theorem effect_of_finishStore {rn : RegIdx} {ix : Indexed} {addr : Word} {bytes : List Byte}
    (answers : finishStore rn ix addr bytes s = .next t) : Effect i s t := by
  obtain ⟨-, rfl⟩ := store_eq_next.1 answers
  split
  · exact effect_of_step ((computes_storeAll s _).trans (computes_writeReg ..)) (by simp) (.inl (by simp))
  · exact effect_of_step (computes_storeAll s _) rfl (.inl rfl)

theorem effect_of_swapCore {rn rd rm : RegIdx} {read : Memory → Word → Word} {align : Word → Word}
    {bytes : Word → List Byte} (answers : swapCore rn rd rm read align bytes s = .next t) : Effect i s t := by
  obtain ⟨-, rfl⟩ := store_eq_next.1 answers
  exact effect_of_step ((computes_storeAll s _).trans (computes_writeReg ..)) (by simp) (.inl (by simp))

theorem finishStm_eq (user pre up wback : Bool) (rn : RegIdx) (list : BitVec 16) (s : State) :
    finishStm user pre up wback rn list s =
      store (stmWrites user wback rn list (blockAddress pre up rn list s) s) s
        fun t => stepPc (if wback then writeReg rn (blockAddress pre up rn list s).final t else t) := rfl

theorem effect_of_finishStm {user pre up wback : Bool} {rn : RegIdx} {list : BitVec 16}
    (answers : finishStm user pre up wback rn list s = .next t) : Effect i s t := by
  rw [finishStm_eq] at answers
  obtain ⟨-, rfl⟩ := store_eq_next.1 answers
  split
  · exact effect_of_step ((computes_storeAll s _).trans (computes_writeReg ..)) (by simp) (.inl (by simp))
  · exact effect_of_step (computes_storeAll s _) rfl (.inl rfl)

/-- Loads leave the pc and the CPSR to the end of the instruction. -/
theorem afterLoads_pc_cpsr (user pre up wback : Bool) (rn : RegIdx) (list : BitVec 16) (s : State) :
    (afterLoads user pre up wback rn list s).pc = s.pc ∧ (afterLoads user pre up wback rn list s).cpsr = s.cpsr :=
  afterLoads_induction (P := fun t => t.pc = s.pc ∧ t.cpsr = s.cpsr)
    (fun _ _ _ _ h => ⟨(writeRegIn_pc ..).trans h.1, (writeRegIn_cpsr ..).trans h.2⟩) user pre up wback rn list ⟨rfl, rfl⟩

theorem effect_of_finishLdm {pre up wback : Bool} {rn : RegIdx} {list : BitVec 16}
    (answers : finishLdm pre up wback rn list s = .next t) : Effect i s t := by
  obtain ⟨pc, cpsr⟩ := afterLoads_pc_cpsr false pre up wback rn list s
  rw [finishLdm] at answers
  split at answers
  · exact effect_of_writePc (computes_afterLoads ..) (.inl (by rw [cpsr])) answers
  · cases answers
    exact effect_of_step (computes_afterLoads ..) pc (.inl (by rw [cpsr]))

theorem effect_of_ldmRetCore {pre up wback : Bool} {rn : RegIdx} {list : BitVec 16}
    (form : returnsFromException i s = true) (pass : ∀ c ∈ ldmRetChecks rn s, c.1 = false)
    (answers : ldmRetCore pre up wback rn list s = .next t) : Effect i s t := by
  obtain ⟨pc, cpsr⟩ := afterLoads_pc_cpsr false pre up wback rn list s
  have ⟨completed, hasSpsr⟩ : s.armCompletion = true ∧ s.cpsr.mode.hasSpsr = true := by simp_all [ldmRetChecks]
  rw [ldmRetCore] at answers
  split at answers
  · exact .returns form completed hasSpsr (computes_afterLoads ..) answers
  · cases answers
    exact effect_of_step (computes_afterLoads ..) pc (.inl (by rw [cpsr]))

/-- BX, as its target says. -/
theorem effect_of_bx {c : Cond} {rm : RegIdx} (answers : branchExchange (readReg s rm) s = .next t) :
    Effect (.bx c rm) s t := by
  rw [branchExchange] at answers
  split at answers
  case isTrue odd =>
    cases answers
    exact .toThumb rfl odd
  case isFalse even =>
    split at answers
    case isTrue => cases answers
    case isFalse word =>
      have aligned : misaligned (readReg s rm) = false := by
        rw [misaligned_eq_false]
        apply BitVec.eq_of_getLsbD_eq
        intro k bound
        rw [BitVec.getLsbD_extractLsb', Nat.zero_add]
        match k, bound with
        | 0, _ => simpa using even
        | 1, _ => simpa using word
      exact effect_of_writePc (.refl s) (.inl rfl) ((writePc_aligned s aligned).trans answers)

theorem effect_of_msrCore {psr : PsrSel} {fields : MsrFields} {v : Word}
    (spec : msrSpec i s = some (psr, fields.flags, fields.ctrl, v)) (hasPsr : (spsrCheck psr s).1 = false)
    (answers : msrCore psr fields v s = .next t) : Effect i s t := by
  obtain ⟨valid, answers⟩ := checked_eq_next answers
  cases answers
  exact .msr spec valid hasPsr

/-- What every instruction whose word passes can do. -/
theorem core_effect (pass : ∀ c ∈ wordChecks i s, c.1 = false) (answers : core i s = .next t) : Effect i s t := by
  have ownPass := fun c hc => pass c (List.mem_append_left _ hc)
  have formPass := fun c hc => pass c (List.mem_append_right _ hc)
  cases i
  case and | eor | sub | rsb | add | adc | sbc | rsc | orr | mov | bic | mvn =>
    refine effect_of_resultCore rfl pass ?_ answers
    rintro ⟨sf, rd⟩
    exact Bool.and_eq_true_iff.2 ⟨beq_iff_eq.2 rd, sf⟩
  case tst | teq | cmp | cmn => exact effect_of_testCore rfl answers
  case mul =>
    refine effect_of_finishMultiply ?_ answers
    rintro rfl
    exact .inr (.inr (.inl ⟨_, _, _, _, _, .inl rfl⟩))
  case mla =>
    refine effect_of_finishMultiply ?_ answers
    rintro rfl
    exact .inr (.inr (.inl ⟨_, _, _, _, _, .inr rfl⟩))
  case umull | umlal | smull | smlal =>
    exact effect_of_longCore (fun sf => .inr (.inr (.inr ⟨_, rfl, sf⟩))) answers
  case swp | swpb => exact effect_of_swapCore answers
  case b => exact effect_of_writePc (.refl s) (.inl rfl) answers
  case bl => exact effect_of_writePc (computes_writeReg ..) (.inl (by simp)) answers
  case bx => exact effect_of_bx answers
  case ldr | ldrb | ldrt | ldrbt | ldrh | ldrsb | ldrsh => exact effect_of_finishLoad answers
  case str | strb | strt | strbt | strh => exact effect_of_finishStore answers
  case ldmia | ldmib | ldmda | ldmdb => exact effect_of_finishLdm answers
  case stmia | stmib | stmda | stmdb | stmUser => exact effect_of_finishStm answers
  case ldmRet => exact effect_of_ldmRetCore rfl formPass answers
  case ldmUser c pre up wback rn list =>
    by_cases empty : list = 0#16
    · simp only [core, formChecks, if_pos empty] at answers formPass
      exact effect_of_ldmRetCore (beq_iff_eq.2 empty) formPass answers
    · simp only [core, formChecks, if_neg empty] at answers formPass
      cases answers
      exact .userLoads rfl (by simp_all [userBankChecks])
  case mrs =>
    exact effect_of_writeResult (computes_afterDraw s) rfl (.inl rfl) answers
  case msrReg c psr fields ignored rm =>
    have ⟨hasPsr, notPc⟩ : (spsrCheck psr s).1 = false ∧ rm ≠ 15 := by simpa [formChecks] using formPass
    exact effect_of_msrCore (if_neg notPc) hasPsr answers
  case msrImm c psr fields ignored rot imm8 =>
    have hasPsr : (spsrCheck psr s).1 = false := formPass _ (List.mem_singleton_self _)
    exact effect_of_msrCore (by rw [rotatedImm_eq]; rfl) hasPsr answers
  case swi =>
    cases answers
    have completed : s.armCompletion = true := by simpa [ownChecks, unimplementedAs, unimplementedCheck] using ownPass
    exact .enters (e := .swi) rfl rfl completed
  case ldc | stc | cdp | mcr | mrc | fallback =>
    cases answers
    have completed : s.armCompletion = true := by simpa [ownChecks, unimplementedAs, unimplementedCheck] using ownPass
    exact .enters (e := .undefined) rfl rfl completed
  case undefHalfword | undefSignedStore | undefGap | undefTest =>
    cases answers
    have completed : s.armCompletion = true := by simpa [formChecks] using formPass
    exact .enters (e := .undefined) rfl rfl completed

end

end Sys2Proof.Machine
end

section
/-! PROOFS. The marks after the effect of an instruction (10_state R121): the parts it gives a value lose theirs, and an
exception entry marks the saved flags where a flag had no value. -/

namespace Sys2Proof.Machine

/-! ## Lists of marks -/

/-- Marks without those of the parts given a value. -/
def unmark (ps us : List UnwrittenPart) : List UnwrittenPart := us.filter fun p => !ps.contains p

theorem give_unwritten (ps : List UnwrittenPart) (s : State) : (give ps s).unwritten = unmark ps s.unwritten := rfl

theorem mem_unmark {ps us : List UnwrittenPart} {p : UnwrittenPart} : p ∈ unmark ps us ↔ p ∈ us ∧ p ∉ ps := by
  simp [unmark]

@[simp] theorem unmark_nil (us : List UnwrittenPart) : unmark [] us = us := by simp [unmark]

theorem unmark_unmark (ps qs us : List UnwrittenPart) : unmark ps (unmark qs us) = unmark (qs ++ ps) us := by
  simp [unmark, List.filter_filter, Bool.and_comm]

theorem unmark_congr {ps qs : List UnwrittenPart} (us : List UnwrittenPart) (h : ∀ p, p ∈ ps ↔ p ∈ qs) :
    unmark ps us = unmark qs us := by
  simp only [unmark, List.contains_eq_mem, h]

theorem regPart_pc (m : Mode) : regPart m 15 = [] := by rw [regPart, view_pc]; rfl

theorem mem_regParts {rs : List RegIdx} {s : State} {p : UnwrittenPart} :
    p ∈ regParts rs s ↔ ∃ r ∈ rs, p ∈ regPart s.cpsr.mode r := List.mem_flatMap

theorem regParts_writeReg (rs : List RegIdx) (r : RegIdx) (v : Word) (s : State) :
    regParts rs (writeReg r v s) = regParts rs s := by
  rw [regParts, writeReg_cpsr, regParts]

/-- Which parts are not marked as before: the marks of an exception entry, then those left by what is given. -/
def marksAfter (i : Instr) (s : State) : List UnwrittenPart :=
  ((savesInto i).map (savedMarks · s)).getD [] ++ unmark (gives i s) s.unwritten

/-! ## Marks through the ends of the handlers -/

section
variable {s t u : State}

theorem stepPc_marks {us : List UnwrittenPart} (h : u.unwritten = us) : (stepPc u).unwritten = us := h

theorem writeReg_marks (r : RegIdx) (v : Word) (s : State) :
    (writeReg r v s).unwritten = unmark (regParts [r] s) s.unwritten := by
  rw [writeReg_unwritten, give_unwritten]
  simp [regParts]

theorem writePc_marks {v : Word} (answers : writePc v u = .next t) : t.unwritten = u.unwritten := by
  obtain ⟨-, rfl⟩ := writePc_eq_next.1 answers
  rfl

theorem writeResult_marks {rd : RegIdx} {v : Word} (answers : writeResult rd v u = .next t) :
    t.unwritten = unmark (regParts [rd] u) u.unwritten := by
  obtain ⟨rfl, -, rfl⟩ | ⟨-, rfl⟩ := writeResult_eq_next.1 answers
  · simp [regParts, regPart_pc]
  · exact writeReg_marks ..

theorem resumeAt_marks {target : Word} {p : Spsr} (answers : resumeAt target p u = .next t) :
    t.unwritten = unmark flagParts u.unwritten := by
  obtain ⟨c, -, ⟨-, rfl⟩ | ⟨-, -, rfl⟩⟩ := resumeAt_eq_next.1 answers <;> rfl

/-- The flags are given after the register. -/
theorem resultCore_marks {sf : Bool} {rd : RegIdx} {given : List UnwrittenPart} {out : Word × Flags}
    (answers : resultCore sf rd given out s = .next t) :
    t.unwritten =
      unmark (regParts [rd] s ++ if sf then if rd = 15 then flagParts else given else []) s.unwritten := by
  rw [resultCore] at answers
  split at answers
  case isTrue form =>
    obtain ⟨rfl, rfl⟩ := form
    rw [resumeAt_marks answers]
    simp [regParts, regPart_pc]
  case isFalse form =>
    obtain ⟨register, rfl⟩ | ⟨rfl, rfl, jumps⟩ | ⟨rd, sf, -⟩ := finishResult_eq_next answers
    · rw [stepPc_unwritten, setFlagsIf_unwritten, give_unwritten, writeReg_marks, unmark_unmark, if_neg register]
    · rw [writePc_marks jumps]
      simp [regParts, regPart_pc]
    · exact absurd ⟨sf, rd⟩ form

theorem testCore_marks {kind : AluKind} {rn : RegIdx} {op2 : Operand2} {f : Word → Shifted → Flags → Word × Flags}
    (answers : testCore kind rn op2 f s = .next t) : t.unwritten = unmark (kind.gives (carryKept op2 s)) s.unwritten := by
  cases answers
  rfl

theorem finishMultiply_marks {sf : Bool} {rd : RegIdx} {v : Word} (answers : finishMultiply sf rd v s = .next t) :
    t.unwritten = unmark (regParts [rd] s ++ if sf then multiplyParts else []) s.unwritten := by
  cases sf with
  | false => simpa using writeResult_marks answers
  | true =>
    rw [writeResult_marks answers, afterDraw_unwritten, setFlags_unwritten, give_unwritten, unmark_unmark]
    exact unmark_congr _ fun p => by rw [List.mem_append, List.mem_append, or_comm]; rfl

theorem longCore_marks {a sf : Bool} {rdHi rdLo rs rm : RegIdx} {product : Word → Word → BitVec 64}
    (answers : longCore a sf rdHi rdLo rs rm product s = .next t) :
    t.unwritten = unmark (regParts [rdHi, rdLo] s ++ if sf then flagParts else []) s.unwritten := by
  have halves (hi lo : Word) :
      (writeReg rdHi hi (writeReg rdLo lo s)).unwritten = unmark (regParts [rdHi, rdLo] s) s.unwritten := by
    rw [writeReg_marks, writeReg_marks, unmark_unmark, regParts_writeReg]
    exact unmark_congr _ fun p => by simp [mem_regParts, or_comm]
  rw [longCore, finishLongMultiply] at answers
  cases answers
  cases sf with
  | false => exact (halves ..).trans (by simp)
  | true => exact (congrArg (unmark flagParts) (halves ..)).trans (unmark_unmark ..)

/-- A writeback that may happen, and a register. -/
theorem finishLoad_marks {rn rd : RegIdx} {ix : Indexed} {data : Word} (answers : finishLoad rn rd ix data s = .next t) :
    t.unwritten = unmark (regParts (if ix.wb then [rd, rn] else [rd]) s) s.unwritten := by
  rw [finishLoad] at answers
  rw [writeResult_marks answers]
  by_cases moves : ix.wb = true
  · by_cases same : rd = rn
    · subst same
      simp only [moves, bne_self_eq_false, Bool.and_false, if_true]
      exact unmark_congr _ fun p => by simp [mem_regParts]
    · simp only [moves, bne_iff_ne.2 same, Bool.and_true, if_true]
      rw [writeReg_marks, unmark_unmark, regParts_writeReg]
      exact unmark_congr _ fun p => by simp [mem_regParts, or_comm]
  · simp [moves]

/-- A store gives no part a value but the base it moves. -/
theorem store_marks {ws : List (Word × List Byte)} {b : Bool} {rn : RegIdx} {v : Word}
    (answers : store ws s (fun t => stepPc (if b then writeReg rn v t else t)) = .next t) :
    t.unwritten = unmark (regParts (if b then [rn] else []) s) s.unwritten := by
  obtain ⟨-, rfl⟩ := store_eq_next.1 answers
  cases b with
  | false => simp [regParts]
  | true => exact writeReg_marks ..

theorem swapCore_marks {rn rd rm : RegIdx} {read : Memory → Word → Word} {align : Word → Word} {bytes : Word → List Byte}
    (answers : swapCore rn rd rm read align bytes s = .next t) :
    t.unwritten = unmark (regParts [rd] s) s.unwritten :=
  store_marks (b := true) answers

/-! ## Marks through loads of a list -/

theorem loadRegs_marks (user : Bool) (values : List (RegIdx × Word)) (s : State) :
    (loadRegs user values s).unwritten =
      unmark ((values.map Prod.fst).flatMap (regPart (if user then .usr else s.cpsr.mode))) s.unwritten := by
  induction values generalizing s with
  | nil => simp [loadRegs]
  | cons rv rest ih =>
    rw [loadRegs_cons, ih, writeRegIn_cpsr, writeRegIn_unwritten, give_unwritten, unmark_unmark]
    rfl

theorem map_fst_ldmValues (list : BitVec 16) (start : Word) (m : Memory) :
    (ldmValues list start m).map Prod.fst = listRegs list := by
  simp [ldmValues, blockSlots, List.mapIdx_eq_zipIdx_map, Function.comp_def]

theorem ldmWriteback_cpsr (wback : Bool) (rn : RegIdx) (list : BitVec 16) (final : Word) (s : State) :
    (ldmWriteback wback rn list final s).cpsr = s.cpsr := by
  rw [ldmWriteback]
  split
  · exact writeReg_cpsr ..
  · rfl

/-- A base that is listed is loaded, so that it is given a value with or without the writeback. -/
theorem afterLoads_marks (pre up wback : Bool) (rn : RegIdx) (list : BitVec 16) (s : State) :
    (afterLoads false pre up wback rn list s).unwritten =
      unmark (regParts (if wback then rn :: listRegs list else listRegs list) s) s.unwritten := by
  simp only [afterLoads, loadRegs_marks, map_fst_ldmValues, ldmWriteback_cpsr, Bool.false_eq_true, if_false]
  rw [← regParts, ldmWriteback]
  cases wback with
  | false => rfl
  | true =>
    by_cases listed : rn ∈ listRegs list
    · simp only [List.contains_eq_mem, listed, decide_true, Bool.not_true, Bool.and_false, Bool.false_eq_true, if_false,
        if_true]
      refine unmark_congr _ fun p => ?_
      simp only [mem_regParts, List.mem_cons, exists_eq_or_imp]
      exact ⟨.inr, fun h => h.elim (fun given => ⟨rn, listed, given⟩) id⟩
    · simp only [List.contains_eq_mem, listed, decide_false, Bool.not_false, Bool.and_self, if_true]
      rw [writeReg_marks, unmark_unmark]
      exact unmark_congr _ fun p => by simp [mem_regParts]

theorem afterUserLoads_marks (pre up : Bool) (rn : RegIdx) (list : BitVec 16) (s : State) :
    (afterLoads true pre up false rn list s).unwritten = unmark (userParts (listRegs list)) s.unwritten := by
  simp only [afterLoads]
  rw [loadRegs_marks, map_fst_ldmValues]
  rfl

theorem finishLdm_marks {pre up wback : Bool} {rn : RegIdx} {list : BitVec 16}
    (answers : finishLdm pre up wback rn list s = .next t) :
    t.unwritten = unmark (regParts (if wback then rn :: listRegs list else listRegs list) s) s.unwritten := by
  rw [← afterLoads_marks pre up]
  rw [finishLdm] at answers
  split at answers
  · exact writePc_marks answers
  · cases answers
    rfl

theorem ldmRetCore_marks {pre up wback : Bool} {rn : RegIdx} {list : BitVec 16} (pc : 15 ∈ listRegs list)
    (answers : ldmRetCore pre up wback rn list s = .next t) :
    t.unwritten =
      unmark (regParts (if wback then rn :: listRegs list else listRegs list) s ++ flagParts) s.unwritten := by
  obtain ⟨v, loaded⟩ := Option.isSome_iff_exists.1 ((isSome_ldmPc pre up rn list s).2 pc)
  simp only [ldmRetCore, loaded] at answers
  rw [resumeAt_marks answers, afterLoads_marks, unmark_unmark]

/-! ## Marks of a status transfer and of an entry -/

theorem msrCore_marks {psr : PsrSel} {fields : MsrFields} {v : Word} (answers : msrCore psr fields v s = .next t) :
    t.unwritten = unmark (msrParts psr fields s) s.unwritten := by
  obtain ⟨-, answers⟩ := checked_eq_next answers
  cases answers
  cases psr <;> simp [msrEffect, give_unwritten]

theorem branchExchange_marks {v : Word} (answers : branchExchange v s = .next t) : t.unwritten = s.unwritten := by
  rw [branchExchange] at answers
  split at answers
  · cases answers
    rfl
  · split at answers
    · cases answers
    · cases answers
      rfl

theorem enterException_marks (e : Exc) (ret : Word) (s : State) :
    (enterException e ret s).unwritten =
      savedMarks e.mode s ++ unmark (regPart e.mode 14 ++ spsrParts e.mode) s.unwritten := by
  rw [enterException_unwritten, give_unwritten, writeRegIn_unwritten, give_unwritten, unmark_unmark]

/-- The marks after the effect of an instruction are those of the table of what it gives. -/
theorem core_marks {i : Instr} (h : returnsWithPc i = true) (pass : ∀ c ∈ wordChecks i s, c.1 = false) (answers : core i s = .next t) :
    t.unwritten = marksAfter i s := by
  cases i
  case and | eor | orr | bic | mov | mvn =>
    exact (resultCore_marks answers).trans (by rw [logical_gives_eq_logicalWrite]; rfl)
  case sub | rsb | add | adc | sbc | rsc =>
    exact (resultCore_marks (given := flagParts) answers).trans (by rw [ite_self]; rfl)
  case tst | teq => exact (testCore_marks answers).trans (by rw [logical_gives_eq_logicalWrite]; rfl)
  case cmp | cmn => exact testCore_marks answers
  case mul | mla => exact finishMultiply_marks answers
  case umull | umlal | smull | smlal => exact longCore_marks answers
  case swp | swpb => exact swapCore_marks answers
  case b => exact (writePc_marks answers).trans (unmark_nil _).symm
  case bl => exact (writePc_marks answers).trans (writeReg_marks ..)
  case bx => exact (branchExchange_marks answers).trans (unmark_nil _).symm
  case ldr | ldrb | ldrt | ldrbt | ldrh | ldrsb | ldrsh => exact finishLoad_marks answers
  case str | strb | strt | strbt | strh => exact store_marks answers
  case ldmia | ldmib | ldmda | ldmdb => exact finishLdm_marks answers
  case stmia | stmib | stmda | stmdb => exact store_marks answers
  case stmUser c pre up wback rn list =>
    have stays : wback = false := pass (wback, .unpredictable 858) (by simp [wordChecks, formChecks, userBankChecks])
    subst stays
    exact store_marks answers
  case ldmRet => exact ldmRetCore_marks (pc_mem_listRegs.2 (by simpa [returnsWithPc] using h)) answers
  case ldmUser c pre up wback rn list =>
    by_cases empty : list = 0#16
    · subst empty
      refine (ldmRetCore_marks (pc_mem_listRegs.2 (.inl rfl)) answers).trans (unmark_congr _ fun p => ?_)
      cases wback <;> simp [gives, regParts, listRegs, regPart_pc]
    · simp only [core, if_neg empty] at answers
      cases answers
      rw [stepPc_unwritten, afterUserLoads_marks]
      simp [marksAfter, savesInto, gives, empty]
  case mrs => exact writeResult_marks (u := afterDraw s) answers
  case msrReg c psr fields ignored rm => exact (msrCore_marks answers).trans (by cases psr <;> rfl)
  case msrImm c psr fields ignored rot imm8 => exact (msrCore_marks answers).trans (by cases psr <;> rfl)
  case swi =>
    cases answers
    exact enterException_marks .swi _ _
  case ldc | stc | cdp | mcr | mrc | fallback | undefHalfword | undefSignedStore | undefGap | undefTest =>
    cases answers
    exact enterException_marks .undefined _ _

end

end Sys2Proof.Machine
end

section
/-! PROOFS. What an instruction that has a next state can have changed (10_state R107 to R109, 60_exceptions R1081, 70_reset
R1121), read from the effect of its handler. -/

namespace Sys2Proof.Machine

/-! ## From the outcome to the effect -/

/-- A return whose list lacks R15, which no word has, only loads (48_block R880). -/
theorem finishLdmRet_eq_core {pre up wback : Bool} {rn : RegIdx} {list : BitVec 16} {s : State}
    (loadsNone : ldmPc pre up rn list s = none) :
    finishLdmRet pre up wback rn list s = ldmRetCore pre up wback rn list s := by
  simp only [finishLdmRet, ldmRetCore, loadsNone]

/-- A handler that answers a next state passed the checks of its word. -/
theorem handler_eq_next {i : Instr} {s t : State} (answers : handler i s = .next t) :
    (∀ c ∈ wordChecks i s, c.1 = false) ∧ core i s = .next t := by
  by_cases returns : returnsWithPc i = true
  · rw [handler_eq_core returns] at answers
    obtain ⟨pass, answers⟩ := checked_eq_next answers
    exact ⟨pass, (checked_eq_next answers).2⟩
  · cases i
    case ldmRet c pre up wback rn list =>
      have loadsNone : ldmPc pre up rn list s = none := by
        rw [← Option.not_isSome_iff_eq_none, isSome_ldmPc, pc_mem_listRegs]
        simpa [returnsWithPc] using returns
      obtain ⟨pass, answers⟩ := checked_eq_next (cs := ldmRetChecks rn s ++ unwrittenChecks _ s) answers
      exact ⟨fun c hc => pass c (List.mem_append_left _ hc), (finishLdmRet_eq_core loadsNone).symm.trans answers⟩
    all_goals exact absurd rfl returns

/-- An instruction only steps, where its condition fails, or has its effect. -/
theorem exec_effect {i : Instr} {s t : State} (answers : exec i s = .next t) :
    t = stepPc (clearHazard s) ∨ (∀ c ∈ wordChecks i s, c.1 = false) ∧ Effect i (clearHazard s) t := by
  obtain ⟨-, ⟨-, steps⟩ | ⟨-, runs⟩⟩ := exec_eq_next answers
  · exact .inl steps
  · obtain ⟨pass, runs⟩ := handler_eq_next runs
    exact .inr ⟨wordChecks_clearHazard i s ▸ pass, core_effect pass runs⟩

/-- From `s` to `t` only registers and marks differ. -/
structure RegistersOnly (s t : State) : Prop where
  pc : t.pc = s.pc
  cpsr : t.cpsr = s.cpsr
  spsr : ∀ m, spsrOf m t = spsrOf m s
  mem : t.mem = s.mem
  hazard : t.ldmUserHazard = s.ldmUserHazard
  fault : t.fault = s.fault
  completion : t.armCompletion = s.armCompletion

theorem registersOnly_afterLoads (user pre up wback : Bool) (rn : RegIdx) (list : BitVec 16) (s : State) :
    RegistersOnly s (afterLoads user pre up wback rn list s) := by
  refine afterLoads_induction (fun m r v t h => ?_) user pre up wback rn list ⟨rfl, rfl, fun _ => rfl, rfl, rfl, rfl, rfl⟩
  obtain ⟨pc, cpsr, spsr, mem, hazard, fault, completion⟩ := h
  exact ⟨(writeRegIn_pc ..).trans pc, (writeRegIn_cpsr ..).trans cpsr, fun m => (spsrOf_writeRegIn ..).trans (spsr m),
    (writeRegIn_mem ..).trans mem, (writeRegIn_ldmUserHazard ..).trans hazard, (writeRegIn_fault ..).trans fault,
    (writeRegIn_armCompletion ..).trans completion⟩

/-- A return leaves all but the flags' marks, the CPSR and the pc as the loads left them. -/
theorem resumeAt_next {target : Word} {p : Spsr} {u t : State} (answers : resumeAt target p u = .next t) :
    ∃ c, restoredPsr p = some c ∧ t = give flagParts { u with cpsr := c, pc := t.pc } ∧
      (c.t = true → t.pc.getLsbD 0 = false) ∧ (c.t = false → t.pc.extractLsb' 0 2 = 0#2) := by
  obtain ⟨c, restored, ⟨thumb, rfl⟩ | ⟨arm, aligned, rfl⟩⟩ := resumeAt_eq_next.mp answers
  · refine ⟨c, restored, rfl, fun _ => ?_, fun arm => by simp [thumb] at arm⟩
    simp [give]
  · exact ⟨c, restored, rfl, fun thumb => by simp [arm] at thumb, fun _ => misaligned_eq_false.mp aligned⟩

theorem restoredPsr_thumb {p : Spsr} {c : Cpsr} (h : restoredPsr p = some c) : c.t = p.control.getLsbD 5 := by
  rw [restoredPsr] at h
  split at h <;> cases h
  rfl

/-- Without field c, or in User mode, an MSR leaves the control byte. -/
theorem msrCpsr_mode {fields : MsrFields} {v : Word} {s : State} (h : (msrCpsr fields v s).mode ≠ s.cpsr.mode) :
    fields.ctrl = true ∧ s.cpsr.mode ≠ .usr := by
  rw [msrCpsr] at h
  split at h
  case isTrue written =>
    obtain ⟨ctrl, privileged⟩ := Bool.and_eq_true_iff.mp written
    refine ⟨ctrl, fun user => ?_⟩
    rw [user] at privileged
    cases privileged
  case isFalse => exact absurd rfl h

theorem msrCpsr_thumb (fields : MsrFields) (v : Word) (s : State) : (msrCpsr fields v s).t = s.cpsr.t := by
  rw [msrCpsr]
  split <;> rfl

/-! ## What each effect changes -/

namespace Effect
variable {i : Instr} {s t : State}

/-- The instructions that enter an exception. -/
theorem enters_of_savesInto {m : Mode} (h : savesInto i = some m) : (∃ c n, i = .swi c n) ∨ trapsUndefined i = true := by
  cases i
  case swi c n => exact .inl ⟨c, n, rfl⟩
  case ldc | stc | cdp | mcr | mrc | fallback | undefHalfword | undefSignedStore | undefGap | undefTest => exact .inr rfl
  all_goals cases h

theorem fault_completion (h : Effect i s t) : t.fault = s.fault ∧ t.armCompletion = s.armCompletion := by
  cases h with
  | computes h => exact ⟨h.computes.fault, h.computes.completion⟩
  | toThumb => exact ⟨rfl, rfl⟩
  | @msr psr => cases psr <;> simp [msrEffect]
  | enters => simp
  | returns _ _ _ loads resumes =>
    obtain ⟨c, -, restored, -⟩ := resumeAt_next resumes
    rw [restored]
    exact ⟨loads.fault, loads.completion⟩
  | userLoads =>
    obtain ⟨-, -, -, -, -, fault, completion⟩ := registersOnly_afterLoads ..
    exact ⟨fault, completion⟩

theorem mode_changed (h : Effect i s t) (change : t.cpsr.mode ≠ s.cpsr.mode) :
    (∃ ff v, msrSpec i s = some (.cpsr, ff, true, v) ∧ s.cpsr.mode ≠ .usr) ∨
      (s.armCompletion = true ∧ ((∃ c n, i = .swi c n) ∨ trapsUndefined i = true ∨ returnsFromException i s = true)) := by
  cases h with
  | computes h => exact absurd h.computes.mode change
  | toThumb => exact absurd rfl change
  | @msr psr ff cf v spec =>
    cases psr with
    | spsr => simp [msrEffect] at change
    | cpsr =>
      obtain ⟨rfl, notUser⟩ := msrCpsr_mode (fields := ⟨ff, cf⟩) change
      exact .inl ⟨ff, v, spec, notUser⟩
  | enters form _ completed =>
    refine .inr ⟨completed, ?_⟩
    rcases enters_of_savesInto form with swi | traps
    · exact .inl swi
    · exact .inr (.inl traps)
  | returns form completed => exact .inr ⟨completed, .inr (.inr form)⟩
  | userLoads => exact absurd (congrArg Cpsr.mode (registersOnly_afterLoads ..).cpsr) change

theorem thumb_set (h : Effect i s t) (arm : s.cpsr.t = false) (thumb : t.cpsr.t = true) :
    (∃ c rm, i = .bx c rm ∧ (readReg s rm).getLsbD 0 = true) ∨
      (s.armCompletion = true ∧ returnsFromException i s = true ∧
        ∃ p, spsrOf s.cpsr.mode s = some p ∧ p.control.getLsbD 5 = true) := by
  cases h with
  | computes h =>
    rw [h.computes.status, arm] at thumb
    cases thumb
  | toThumb form odd => exact .inl ⟨_, _, form, odd⟩
  | @msr psr ff cf v spec =>
    cases psr with
    | spsr => simp [msrEffect, arm] at thumb
    | cpsr => exact absurd ((msrCpsr_thumb ..).symm.trans thumb) (by simp [arm])
  | enters => simp at thumb
  | returns form completed hasSpsr _ resumes =>
    obtain ⟨p, saved⟩ := Option.isSome_iff_exists.mp ((spsrOf_isSome s.cpsr.mode s).trans hasSpsr)
    rw [psrParts_spsr saved] at resumes
    obtain ⟨c, restored, result, -⟩ := resumeAt_next resumes
    rw [result] at thumb
    exact .inr ⟨completed, form, p, saved, (restoredPsr_thumb restored).symm.trans thumb⟩
  | @userLoads c pre up wback rn list =>
    have kept : (afterLoads true pre up false rn list s).cpsr.t = false :=
      (congrArg Cpsr.t (registersOnly_afterLoads ..).cpsr).trans arm
    exact absurd (kept.symm.trans thumb) Bool.false_ne_true

theorem spsr_changed (h : Effect i s t) {m : Mode} (change : spsrOf m t ≠ spsrOf m s) :
    (m = s.cpsr.mode ∧ ∃ ff cf v, msrSpec i s = some (.spsr, ff, cf, v)) ∨
      (s.armCompletion = true ∧ ((∃ c n, i = .swi c n) ∨ trapsUndefined i = true)) := by
  cases h with
  | computes h => exact absurd (h.computes.spsr m) change
  | toThumb => exact absurd (by cases m <;> rfl) change
  | @msr psr ff cf v spec =>
    cases psr with
    | cpsr => exact absurd (by cases m <;> rfl) change
    | spsr =>
      refine .inl ⟨?_, ff, cf, v, spec⟩
      by_contra other
      exact change (by simp [msrEffect, spsrOf_setSpsr, other])
  | enters form _ completed => exact .inr ⟨completed, enters_of_savesInto form⟩
  | returns _ _ _ loads resumes =>
    obtain ⟨c, -, restored, -⟩ := resumeAt_next resumes
    rw [restored, spsrOf_give] at change
    exact absurd ((by cases m <;> rfl : _ = spsrOf m _).trans (loads.spsr m)) change
  | userLoads => exact absurd ((by cases m <;> rfl : _ = spsrOf m _).trans ((registersOnly_afterLoads ..).spsr m)) change

theorem hazard_set (h : Effect i s t) (clear : s.ldmUserHazard = false) (hazard : t.ldmUserHazard = true) :
    ∃ c pre up wback rn list, i = .ldmUser c pre up wback rn list := by
  cases h with
  | computes h => exact absurd (h.computes.hazard.symm.trans hazard) (by simp [clear])
  | toThumb => exact absurd (clear.symm.trans hazard) Bool.false_ne_true
  | @msr psr => cases psr <;> simp [msrEffect, clear] at hazard
  | enters => simp [clear] at hazard
  | returns _ _ _ loads resumes =>
    obtain ⟨c, -, restored, -⟩ := resumeAt_next resumes
    rw [restored] at hazard
    exact absurd (loads.hazard.symm.trans hazard) (by simp [clear])
  | userLoads form => exact ⟨_, _, _, _, _, _, form⟩

theorem flags_changed (h : Effect i s t) (change : t.cpsr.flags ≠ s.cpsr.flags) :
    SetsFlags i s ∨ (∃ cf v, msrSpec i s = some (.cpsr, true, cf, v)) ∨
      (s.armCompletion = true ∧ returnsFromException i s = true) := by
  cases h with
  | computes h => exact .inl (h.flags.resolve_left change)
  | toThumb => exact absurd rfl change
  | @msr psr ff cf v spec =>
    cases psr with
    | spsr => simp [msrEffect] at change
    | cpsr =>
      cases ff with
      | true => exact .inr (.inl ⟨cf, v, spec⟩)
      | false => exact absurd msrCpsr_flags change
  | enters => simp at change
  | returns form completed => exact .inr (.inr ⟨completed, form⟩)
  | userLoads => exact absurd (congrArg Cpsr.flags (registersOnly_afterLoads ..).cpsr) change

theorem mem_wf (h : Effect i s t) (wf : Memory.wf s.mem = true) : Memory.wf t.mem = true := by
  cases h with
  | computes h => exact h.computes.mem wf
  | toThumb => exact wf
  | @msr psr => cases psr <;> simpa [msrEffect] using wf
  | enters => simpa using wf
  | returns _ _ _ loads resumes =>
    obtain ⟨c, -, restored, -⟩ := resumeAt_next resumes
    rw [restored]
    exact loads.mem wf
  | @userLoads c pre up wback rn list =>
    have kept : (afterLoads true pre up false rn list s).mem = s.mem := (registersOnly_afterLoads ..).mem
    exact (congrArg (fun m => Memory.wf m) kept).trans wf

/-- From ARM state at an aligned pc an effect goes to a pc that the new instruction set can execute from. -/
theorem pc_executable (h : Effect i s t) (arm : s.cpsr.t = false) (aligned : s.pc.extractLsb' 0 2 = 0#2) :
    (t.cpsr.t = false → t.pc.extractLsb' 0 2 = 0#2) ∧ (t.cpsr.t = true → t.pc.getLsbD 0 = false) := by
  have steps {u : State} (pc : u.pc = s.pc + 4#32) (thumb : u.cpsr.t = false) :
      (u.cpsr.t = false → u.pc.extractLsb' 0 2 = 0#2) ∧ (u.cpsr.t = true → u.pc.getLsbD 0 = false) := by
    refine ⟨fun _ => ?_, fun set => absurd (thumb.symm.trans set) Bool.false_ne_true⟩
    rw [pc, low_bits_add_four, aligned]
  cases h with
  | computes h =>
    have thumb : t.cpsr.t = false := by rw [h.computes.status, arm]
    rcases h.pc with pc | target
    · exact steps pc thumb
    · exact ⟨fun _ => target, fun set => absurd (thumb.symm.trans set) Bool.false_ne_true⟩
  | toThumb => exact ⟨fun clear => absurd clear.symm Bool.false_ne_true, fun _ => by simp⟩
  | @msr psr ff cf v =>
    cases psr with
    | cpsr => exact steps rfl ((msrCpsr_thumb ..).trans arm)
    | spsr => exact steps (by simp [msrEffect]) (by simp [msrEffect, arm])
  | @enters e => 
    refine ⟨fun _ => ?_, fun set => by simp at set⟩
    rw [enterException_pc]
    cases e <;> rfl
  | returns _ _ _ _ resumes =>
    obtain ⟨c, -, restored, thumbPc, armPc⟩ := resumeAt_next resumes
    have status : t.cpsr = c := congrArg State.cpsr restored
    exact ⟨fun clear => armPc (status ▸ clear), fun set => thumbPc (status ▸ set)⟩
  | @userLoads c pre up wback rn list =>
    obtain ⟨pc, cpsr, -⟩ := registersOnly_afterLoads true pre up false rn list s
    exact steps (congrArg (· + 4#32) pc) ((congrArg Cpsr.t cpsr).trans arm)

end Effect

theorem dataSpec_clearHazard (i : Instr) (s : State) : dataSpec i (clearHazard s) = dataSpec i s := by cases i <;> rfl

theorem testSpec_clearHazard (i : Instr) (s : State) : testSpec i (clearHazard s) = testSpec i s := by cases i <;> rfl

theorem longSpec_clearHazard (i : Instr) (s : State) : longSpec i (clearHazard s) = longSpec i s := by cases i <;> rfl

theorem msrSpec_clearHazard (i : Instr) (s : State) : msrSpec i (clearHazard s) = msrSpec i s := by cases i <;> rfl

theorem returnsFromException_clearHazard (i : Instr) (s : State) :
    returnsFromException i (clearHazard s) = returnsFromException i s := by cases i <;> rfl

/-- A long multiply that runs has its completion. -/
theorem completed_of_longSpec {i : Instr} {s : State} {l : LongSpec} (spec : longSpec i s = some l)
    (pass : ∀ c ∈ wordChecks i s, c.1 = false) : s.armCompletion = true := by
  have own := fun c hc => pass c (List.mem_append_left _ hc)
  cases i
  case umull | umlal | smull | smlal => simpa [ownChecks, unimplementedAs, unimplementedCheck] using own
  all_goals cases spec

/-! ## The hazard of a user-bank LDM (70_reset R1121) -/

theorem hazardReg_iff (r : RegIdx) : hazardReg r = true ↔ 8 ≤ r.val ∧ r.val ≤ 14 := by
  simp [hazardReg]

theorem exec_hazard {i : Instr} {s : State} (hazard : s.ldmUserHazard = true) (decided : Decided i s)
    (passes : condPass i.cond s.cpsr.flags = true) (touches : ∃ r ∈ touched i, hazardReg r = true) :
    ∃ r ∈ touched i, hazardReg r = true ∧ exec i s = .fault (.ldmUserBankHazard r) := by
  obtain ⟨r, found⟩ := Option.isSome_iff_exists.mp (List.find?_isSome.mpr touches)
  refine ⟨r, List.mem_of_find?_eq_some found, List.find?_some found, ?_⟩
  rw [exec_eq_handler, whenPassed_hazard _ decided passes hazard found]

theorem exec_clearHazard {i : Instr} {s : State}
    (untouched : condPass i.cond s.cpsr.flags = false ∨ ∀ r ∈ touched i, hazardReg r = false) :
    exec i s = exec i (clearHazard s) := by
  rw [exec_eq_handler, exec_eq_handler, whenPassed, whenPassed, unwrittenChecks_clearHazard]
  refine congrArg _ ?_
  rcases untouched with failed | untouched
  · rw [whenDecided, whenDecided, clearHazard_cpsr, failed]
    rfl
  · have none : (touched i).find? hazardReg = none := by simpa using untouched
    rw [whenDecided, whenDecided, clearHazard_cpsr, none]
    cases s.ldmUserHazard <;> rfl

end Sys2Proof.Machine

open Sys2Proof Sys2Proof.Machine

/-- Settles O54, effect by effect. -/
theorem whatChangesModeThumbAndSpsr : Obligations.WhatChangesModeThumbAndSpsr := by
  unfold Obligations.WhatChangesModeThumbAndSpsr
  intro i s t answers
  rcases exec_effect answers with rfl | ⟨-, effect⟩
  · refine ⟨fun change => absurd rfl change, fun arm thumb => absurd (arm.symm.trans thumb) Bool.false_ne_true,
      fun m change => absurd (by simp) change, rfl, rfl⟩
  · obtain ⟨fault, completion⟩ := effect.fault_completion
    have mode := effect.mode_changed
    have thumb := effect.thumb_set
    have spsr := fun m => effect.spsr_changed (m := m)
    simp only [msrSpec_clearHazard, returnsFromException_clearHazard, spsrOf_clearHazard] at mode thumb spsr
    exact ⟨mode, thumb, spsr, fault, completion⟩

/-- Settles O55, effect by effect. -/
theorem flagWriters : Obligations.FlagWriters := by
  unfold Obligations.FlagWriters
  intro i s t answers change
  rcases exec_effect answers with rfl | ⟨pass, effect⟩
  · exact absurd rfl change
  · have writes := effect.flags_changed change
    simp only [SetsFlags, dataSpec_clearHazard, testSpec_clearHazard, longSpec_clearHazard, msrSpec_clearHazard,
      returnsFromException_clearHazard] at writes
    obtain (data | test | mul | ⟨l, spec, sf⟩) | msr | ⟨completed, form⟩ := writes
    · exact .inl data
    · exact .inr (.inl test)
    · exact .inr (.inr (.inl mul))
    · exact .inr (.inr (.inr (.inr ⟨completed_of_longSpec spec pass, .inl ⟨l, spec, sf⟩⟩)))
    · exact .inr (.inr (.inr (.inl msr)))
    · exact .inr (.inr (.inr (.inr ⟨completed, .inr form⟩)))

/-- Settles O13. -/
theorem userBankHazard : Obligations.UserBankHazard := by
  unfold Obligations.UserBankHazard
  refine ⟨fun i s hazard decided passes touches => ?_, fun i s untouched => exec_clearHazard ?_,
    fun i s t answers set => ?_⟩
  · simp only [← hazardReg_iff] at touches
    obtain ⟨r, member, high, fault⟩ := exec_hazard hazard decided passes touches
    obtain ⟨low, top⟩ := (hazardReg_iff r).mp high
    exact ⟨r, member, low, top, fault⟩
  · simpa only [← hazardReg_iff, Bool.not_eq_true] using untouched
  · rcases exec_effect answers with rfl | ⟨-, effect⟩
    · cases set
    · exact effect.hazard_set rfl set

end

section
/-! PROOFS. What every step keeps (10_state R113, R121, 20_memory R201), and what a User-mode step cannot change without
ARM_COMPLETION (60_exceptions R1080, R1081). -/

namespace Sys2Proof.Machine

/-! ## The instruction of a step -/

/-- A step that has a next state runs a well-formed instruction in ARM state. -/
theorem step_eq_next {s t : State} (answers : step s = .next t) :
    s.cpsr.t = false ∧ ∃ i : Instr, i.wellFormed = true ∧ exec i s = .next t := by
  rw [step] at answers
  split at answers
  · cases answers
  · split at answers
    · cases answers
    · next thumb =>
      refine ⟨Bool.eq_false_iff.mpr thumb, ?_⟩
      rw [executeWord, decodeWord] at answers
      split at answers
      · next i decoded =>
        split at decoded <;> cases decoded
        exact ⟨_, wellFormed_decodeFamily .., answers⟩
      · cases answers

/-- A step that faults runs a well-formed instruction, unless the condition is NV. -/
theorem step_eq_fault {s : State} {f : Fault} (faults : step s = .fault f) :
    f = .unpredictable 421 ∨ ∃ i : Instr, i.wellFormed = true ∧ exec i s = .fault f := by
  rw [step] at faults
  split at faults
  · cases faults
  · split at faults
    · cases faults
    · rw [executeWord, decodeWord] at faults
      split at faults
      · next i decoded =>
        split at decoded <;> cases decoded
        exact .inr ⟨_, wellFormed_decodeFamily .., faults⟩
      · cases faults
        exact .inl rfl

/-- A well-formed instruction only steps, or has its effect, which moves the marks as its row of the table says. -/
theorem exec_effect_marks {i : Instr} {s t : State} (wf : i.wellFormed = true) (answers : exec i s = .next t) :
    t = stepPc (clearHazard s) ∨
      (∀ c ∈ wordChecks i s, c.1 = false) ∧ Effect i (clearHazard s) t ∧ t.unwritten = marksAfter i (clearHazard s) := by
  obtain ⟨-, ⟨-, steps⟩ | ⟨-, runs⟩⟩ := exec_eq_next answers
  · exact .inl steps
  · obtain ⟨pass, runs⟩ := handler_eq_next runs
    exact .inr ⟨wordChecks_clearHazard i s ▸ pass, core_effect pass runs,
      core_marks (returnsWithPc_of_wellFormed wf) pass runs⟩

/-! ## Marks -/

/-- The saved flags that an entry may mark are among the parts it gives a value. -/
theorem spsrFlags_mem_gives {i : Instr} {m : Mode} (s : State) (h : savesInto i = some m) : .spsrFlags m ∈ gives i s := by
  cases i
  case swi | ldc | stc | cdp | mcr | mrc | fallback | undefHalfword | undefSignedStore | undefGap | undefTest =>
    cases h
    simp [gives, spsrParts]
  all_goals cases h

theorem nodup_marksAfter (i : Instr) {s : State} (h : s.unwritten.Nodup) : (marksAfter i s).Nodup := by
  have kept : (unmark (gives i s) s.unwritten).Nodup := h.filter _
  rw [marksAfter]
  cases saves : savesInto i with
  | none => exact kept
  | some m =>
    rw [Option.map_some, Option.getD_some, savedMarks]
    split
    · refine List.nodup_cons.mpr ⟨fun marked => ?_, kept⟩
      exact (mem_unmark.mp marked).2 (spsrFlags_mem_gives s saves)
    · exact kept

theorem marksAfter_eq_nil (i : Instr) {s : State} (h : s.unwritten = []) : marksAfter i s = [] := by
  have written : ∀ p ∈ flagParts, p ∉ s.unwritten := fun p _ marked => by simp [h] at marked
  simp only [marksAfter, h, unmark, List.filter_nil, List.append_nil]
  cases savesInto i with
  | none => rfl
  | some m => exact savedMarks_eq_nil written m

/-! ## No unwritten read where every part is written -/

/-- A next state, or a fault that only a computed value or the prefetched words decide (60_exceptions R1020). -/
def endsLate : Result → Bool
  | .next _ => true
  | .fault (.unpredictable _) | .fault (.selfModifyHazard _) => true
  | _ => false

section
variable (s : State)

theorem endsLate_writePc (v : Word) : endsLate (writePc v s) = true := by
  rw [writePc]
  split <;> rfl

theorem endsLate_writeResult (rd : RegIdx) (v : Word) : endsLate (writeResult rd v s) = true := by
  rw [writeResult]
  split
  · exact endsLate_writePc ..
  · rfl

theorem endsLate_resumeAt (target : Word) (p : Spsr) : endsLate (resumeAt target p s) = true := by
  rw [resumeAt]
  split
  · rfl
  · split
    · rfl
    · exact endsLate_writePc ..

theorem endsLate_store (ws : List (Word × List Byte)) (rest : State → State) : endsLate (store ws s rest) = true := by
  rw [store]
  split <;> rfl

theorem endsLate_finishStore (rn : RegIdx) (ix : Indexed) (addr : Word) (bytes : List Byte) :
    endsLate (finishStore rn ix addr bytes s) = true := endsLate_store ..

theorem endsLate_swapCore (rn rd rm : RegIdx) (read : Memory → Word → Word) (align : Word → Word)
    (bytes : Word → List Byte) : endsLate (swapCore rn rd rm read align bytes s) = true := endsLate_store ..

theorem endsLate_finishStm (user pre up wback : Bool) (rn : RegIdx) (list : BitVec 16) :
    endsLate (finishStm user pre up wback rn list s) = true := by
  rw [finishStm_eq]
  exact endsLate_store ..

theorem endsLate_resultCore (sf : Bool) (rd : RegIdx) (given : List UnwrittenPart) (out : Word × Flags) :
    endsLate (resultCore sf rd given out s) = true := by
  rw [resultCore]
  split
  · exact endsLate_resumeAt ..
  · next form =>
    rw [finishResult]
    split
    · next pc =>
      rw [if_neg fun sf => form ⟨sf, pc⟩]
      exact endsLate_writePc ..
    · rfl

theorem endsLate_finishMultiply (sf : Bool) (rd : RegIdx) (v : Word) : endsLate (finishMultiply sf rd v s) = true := by
  rw [finishMultiply]
  split <;> exact endsLate_writeResult ..

theorem endsLate_branchExchange (v : Word) : endsLate (branchExchange v s) = true := by
  rw [branchExchange]
  split
  · rfl
  · split <;> rfl

theorem endsLate_finishLdm (pre up wback : Bool) (rn : RegIdx) (list : BitVec 16) :
    endsLate (finishLdm pre up wback rn list s) = true := by
  rw [finishLdm]
  split
  · exact endsLate_writePc ..
  · rfl

theorem endsLate_ldmRetCore (pre up wback : Bool) (rn : RegIdx) (list : BitVec 16) :
    endsLate (ldmRetCore pre up wback rn list s) = true := by
  rw [ldmRetCore]
  split
  · exact endsLate_resumeAt ..
  · rfl

theorem endsLate_msrCore (psr : PsrSel) (fields : MsrFields) (v : Word) :
    endsLate (msrCore psr fields v s) = true := by
  simp only [msrCore, msrValueChecks, checked]
  split
  · rfl
  · split <;> rfl

theorem endsLate_core (i : Instr) : endsLate (core i s) = true := by
  cases i
  case and | eor | sub | rsb | add | adc | sbc | rsc | orr | mov | bic | mvn => exact endsLate_resultCore ..
  case mul | mla => exact endsLate_finishMultiply ..
  case b | bl => exact endsLate_writePc ..
  case bx => exact endsLate_branchExchange ..
  case mrs | ldr | ldrb | ldrt | ldrbt | ldrh | ldrsb | ldrsh => exact endsLate_writeResult ..
  case str | strb | strt | strbt | strh => exact endsLate_finishStore ..
  case swp | swpb => exact endsLate_swapCore ..
  case stmia | stmib | stmda | stmdb | stmUser => exact endsLate_finishStm ..
  case ldmia | ldmib | ldmda | ldmdb => exact endsLate_finishLdm ..
  case ldmRet => exact endsLate_ldmRetCore ..
  case ldmUser =>
    rw [core]
    split
    · exact endsLate_ldmRetCore ..
    · rfl
  case msrReg | msrImm => exact endsLate_msrCore ..
  case tst | teq | cmp | cmn | umull | umlal | smull | smlal | swi | ldc | stc | cdp | mcr | mrc | fallback | undefHalfword
    | undefSignedStore | undefGap | undefTest => rfl

end

/-- The faults of checks that read no part. -/
def readsNoPart : Fault → Bool
  | .unwrittenRead _ => false
  | _ => true

theorem readsNoPart_formChecks (i : Instr) (s : State) : (formChecks i s).all (fun c => readsNoPart c.2) = true := by
  cases i
  case ldmUser =>
    rw [formChecks]
    split <;> rfl
  all_goals rfl

theorem readsNoPart_wordChecks (i : Instr) (s : State) : (wordChecks i s).all (fun c => readsNoPart c.2) = true := by
  rw [wordChecks, List.all_append, readsNoPart_formChecks, Bool.and_true, ownChecks]
  cases unimplementedAs i <;> rfl

theorem checked_eq_fault {cs : List (Bool × Fault)} {k : Result} {f : Fault} (h : checked cs k = .fault f) :
    (∃ c ∈ cs, c.2 = f) ∨ k = .fault f := by
  induction cs with
  | nil => exact .inr h
  | cons c rest ih =>
    obtain ⟨holds, g⟩ := c
    cases holds with
    | true =>
      cases h
      exact .inl ⟨_, List.mem_cons_self, rfl⟩
    | false =>
      rcases ih h with ⟨c, member, fault⟩ | fault
      · exact .inl ⟨c, List.mem_cons_of_mem _ member, fault⟩
      · exact .inr fault

/-- Where every part is written no instruction of a word reads an unwritten one (10_state R121). -/
theorem exec_ne_unwrittenRead {i : Instr} (wf : i.wellFormed = true) {s : State} (written : s.unwritten = [])
    (p : UnwrittenPart) : exec i s ≠ .fault (.unwrittenRead p) := by
  intro faults
  have marksPass (ps : List UnwrittenPart) : ∀ c ∈ unwrittenChecks ps s, c.1 = false :=
    unwrittenChecks_pass.mpr fun _ _ marked => by simp [written] at marked
  rw [exec_eq_handler, whenPassed, checked_pass _ (marksPass _), whenDecided] at faults
  split at faults
  · split at faults
    · cases faults
    · rw [handler_eq_core (returnsWithPc_of_wellFormed wf), dependsOn_clearHazard, unwrittenChecks_clearHazard] at faults
      rcases checked_eq_fault faults with ⟨c, member, reads⟩ | faults
      · have readsNone := List.all_eq_true.mp (readsNoPart_wordChecks ..) c member
        rw [reads] at readsNone
        cases readsNone
      · rw [checked_pass _ (marksPass _)] at faults
        have late := endsLate_core (clearHazard s) i
        rw [faults] at late
        cases late
  · cases faults

/-! ## A User-mode step without ARM_COMPLETION -/

/-- All of the parts are ones that User mode sees. -/
def UserSees (ps : List UnwrittenPart) : Prop := ∀ p ∈ ps, p.userSees

section
variable {ps qs : List UnwrittenPart} {s : State}

theorem userSees_nil : UserSees [] := fun _ h => absurd h List.not_mem_nil

theorem userSees_append (h : UserSees ps) (h' : UserSees qs) : UserSees (ps ++ qs) :=
  fun p member => (List.mem_append.mp member).elim (h p) (h' p)

theorem userSees_ite (b : Prop) [Decidable b] (h : UserSees ps) (h' : UserSees qs) :
    UserSees (if b then ps else qs) := by
  split
  · exact h
  · exact h'

theorem userSees_flags (h : ps ⊆ flagParts) : UserSees ps := fun _ member => .inl (h member)

theorem userSees_userParts (rs : List RegIdx) : UserSees (userParts rs) := by
  intro p member
  obtain ⟨r, -, shown⟩ := List.mem_flatMap.mp member
  obtain ⟨q, named, rfl⟩ := List.mem_map.mp shown
  exact .inr ⟨r, q, by simpa using named, rfl⟩

theorem userSees_regParts (user : s.cpsr.mode = .usr) (rs : List RegIdx) : UserSees (regParts rs s) := by
  rw [regParts, user]
  exact userSees_userParts rs

theorem userSees_logicalWrite (op2 : Operand2) : UserSees (logicalWrite op2 s) :=
  userSees_ite _ (userSees_flags (by simp [flagParts])) (userSees_flags (by simp [flagParts]))

/-- What an MSR writes in User mode, which has no saved status. -/
theorem userSees_msr (user : s.cpsr.mode = .usr) {psr : PsrSel} (hasPsr : (spsrCheck psr s).1 = false) (fields : MsrFields) :
    UserSees (msrParts psr fields s) := by
  cases psr with
  | cpsr => exact userSees_ite _ (userSees_flags (List.Subset.refl _)) userSees_nil
  | spsr => simp [spsrCheck, user, Mode.hasSpsr] at hasPsr

end

/-- In User mode an instruction that enters no exception gives a value only to parts that User mode sees. -/
theorem userSees_gives {i : Instr} {s : State} (user : s.cpsr.mode = .usr) (noEntry : savesInto i = none)
    (pass : ∀ c ∈ wordChecks i s, c.1 = false) : UserSees (gives i s) := by
  have regs := userSees_regParts user
  have flags : UserSees flagParts := userSees_flags (List.Subset.refl _)
  have formPass := fun c hc => pass c (List.mem_append_right _ hc)
  cases i
  case and | eor | orr | mov | bic | mvn =>
    exact userSees_append (regs _) (userSees_ite _ (userSees_ite _ flags (userSees_logicalWrite _)) userSees_nil)
  case sub | rsb | add | adc | sbc | rsc | umull | umlal | smull | smlal =>
    exact userSees_append (regs _) (userSees_ite _ flags userSees_nil)
  case mul | mla =>
    exact userSees_append (regs _) (userSees_ite _ (userSees_flags (by simp [flagParts])) userSees_nil)
  case tst | teq => exact userSees_logicalWrite _
  case cmp | cmn => exact flags
  case swp | swpb | bl | mrs | ldr | ldrb | ldrt | ldrbt | ldrh | ldrsb | ldrsh | str | strb | strt | strbt | strh | ldmia
    | ldmib | ldmda | ldmdb | stmia | stmib | stmda | stmdb => exact regs _
  case ldmRet => exact userSees_append (regs _) flags
  case ldmUser => exact userSees_ite _ (userSees_append (regs _) flags) (userSees_userParts _)
  case msrReg c psr fields ignored rm =>
    have hasPsr := formPass (spsrCheck psr s) List.mem_cons_self
    cases psr <;> exact userSees_msr user hasPsr fields
  case msrImm c psr fields ignored rot imm8 =>
    have hasPsr := formPass (spsrCheck psr s) List.mem_cons_self
    cases psr <;> exact userSees_msr user hasPsr fields
  case b | bx | stmUser => exact userSees_nil
  case swi | ldc | stc | cdp | mcr | mrc | fallback | undefHalfword | undefSignedStore | undefGap | undefTest =>
    cases noEntry

/-- Without ARM_COMPLETION no instruction whose word passes enters an exception (49_unimplemented R901, R915, R920). -/
theorem savesInto_eq_none {i : Instr} {s : State} (normative : s.armCompletion = false)
    (pass : ∀ c ∈ wordChecks i s, c.1 = false) : savesInto i = none := by
  have formPass := fun c hc => pass c (List.mem_append_right _ hc)
  have ownPass := fun c hc => pass c (List.mem_append_left _ hc)
  cases i
  case swi | ldc | stc | cdp | mcr | mrc | fallback =>
    simp [ownChecks, unimplementedAs, unimplementedCheck, normative] at ownPass
  case undefHalfword | undefSignedStore | undefGap | undefTest => simp [formChecks, normative] at formPass
  all_goals rfl

/-- The control byte, the SPSRs and the registers of the other modes after a User-mode effect. -/
theorem Effect.user_confined {i : Instr} {s t : State} (h : Effect i s t) (normative : s.armCompletion = false)
    (user : s.cpsr.mode = .usr) :
    t.cpsr.mode = .usr ∧ t.cpsr.i = s.cpsr.i ∧ t.cpsr.f = s.cpsr.f ∧ (∀ m, spsrOf m t = spsrOf m s) ∧
      ∀ p, (∀ r, view .usr r ≠ some p) → t.regs.get p = s.regs.get p := by
  cases h with
  | computes h =>
    obtain ⟨status, spsr, regs⟩ := h.computes
    refine ⟨?_, ?_, ?_, spsr, fun p hidden => regs p (user ▸ hidden)⟩ <;> rw [status]
    exact user
  | toThumb => exact ⟨user, rfl, rfl, fun m => by cases m <;> rfl, fun _ _ => rfl⟩
  | @msr psr ff cf v spec valid hasPsr =>
    cases psr with
    | spsr => simp [spsrCheck, user, Mode.hasSpsr] at hasPsr
    | cpsr =>
      have unprivileged : ctrlWritten cf s = false := by simp [ctrlWritten, user, Mode.privileged]
      have status : (msrEffect .cpsr ⟨ff, cf⟩ v s).cpsr = { s.cpsr with flags := msrFlags ff v s.cpsr.flags } := by
        change msrCpsr ⟨ff, cf⟩ v s = _
        simp only [msrCpsr, unprivileged, Bool.false_eq_true, if_false]
      rw [status]
      exact ⟨user, rfl, rfl, fun m => by cases m <;> rfl, fun _ _ => rfl⟩
  | enters _ _ completed | returns _ completed => exact absurd (normative.symm.trans completed) Bool.false_ne_true
  | userLoads _ hasSpsr =>
    rw [user] at hasSpsr
    cases hasSpsr

end Sys2Proof.Machine

open Sys2Proof Sys2Proof.Machine

/-- Settles O3. -/
theorem stepKeepsInvariant : Obligations.StepKeepsInvariant := by
  unfold Obligations.StepKeepsInvariant
  refine ⟨fun s t inv answers => ?_, fun s written => ⟨fun t answers => ?_, fun p faults => ?_⟩⟩
  · obtain ⟨wf, marks, armPc, -⟩ := inv
    obtain ⟨arm, i, wellFormed, answers⟩ := step_eq_next answers
    rcases exec_effect_marks wellFormed answers with rfl | ⟨-, effect, marked⟩
    · refine ⟨wf, marks, fun _ => ?_, fun thumb => absurd (arm.symm.trans thumb) Bool.false_ne_true⟩
      exact (low_bits_add_four _).trans (armPc arm)
    · obtain ⟨inArm, inThumb⟩ := effect.pc_executable arm (armPc arm)
      exact ⟨effect.mem_wf wf, marked ▸ nodup_marksAfter i marks, inArm, inThumb⟩
  · obtain ⟨-, i, wellFormed, answers⟩ := step_eq_next answers
    rcases exec_effect_marks wellFormed answers with rfl | ⟨-, -, marked⟩
    · exact written
    · exact marked.trans (marksAfter_eq_nil i (s := clearHazard s) written)
  · obtain nv | ⟨i, wellFormed, faults⟩ := step_eq_fault faults
    · cases nv
    · exact exec_ne_unwrittenRead wellFormed written p faults

/-- Settles O56. -/
theorem normativeUserModeConfined : Obligations.NormativeUserModeConfined := by
  unfold Obligations.NormativeUserModeConfined
  intro s t normative user answers
  obtain ⟨-, i, wellFormed, answers⟩ := step_eq_next answers
  rcases exec_effect_marks wellFormed answers with rfl | ⟨pass, effect, marked⟩
  · exact ⟨normative, user, rfl, rfl, fun m => by simp, fun _ _ => Iff.rfl, fun _ _ => rfl⟩
  · obtain ⟨mode, irq, fiq, spsr, regs⟩ := effect.user_confined normative user
    have noEntry := savesInto_eq_none normative pass
    refine ⟨effect.fault_completion.2.trans normative, mode, irq, fiq, fun m => (spsr m).trans (by simp), fun p hidden => ?_,
      regs⟩
    rw [marked, marksAfter, noEntry]
    have notGiven : p ∉ gives i (clearHazard s) := fun given =>
      hidden (userSees_gives (s := clearHazard s) user noEntry ((wordChecks_clearHazard i s).symm ▸ pass) p given)
    simp [mem_unmark, notGiven]

end

section
/-! PROOFS. States that agree on the values of some parts (10_state R121): reads of those parts give the same, writes of the
same values add to them, and so the effect of an instruction that depends on those parts alone is the same in both. -/

namespace Sys2Proof.Machine

/-! ## Agreement -/

/-- The parts known, and those just given the same value. -/
def Also (K : UnwrittenPart → Prop) (ps : List UnwrittenPart) (p : UnwrittenPart) : Prop := K p ∨ p ∈ ps

/-- Every one of the parts is known. -/
def Knows (K : UnwrittenPart → Prop) (ps : List UnwrittenPart) : Prop := ∀ p ∈ ps, K p

/-- The known flags are the same. -/
structure FlagsAgree (K : UnwrittenPart → Prop) (f f' : Flags) : Prop where
  n : K .flagN → f'.n = f.n
  z : K .flagZ → f'.z = f.z
  c : K .flagC → f'.c = f.c
  v : K .flagV → f'.v = f.v

/-- All but marks is the same in both states, except for the values of the parts that are not known. -/
structure AgreeOn (K : UnwrittenPart → Prop) (s s' : State) : Prop where
  regs : ∀ q, K (.reg q) → s'.regs.get q = s.regs.get q
  flags : FlagsAgree K s.cpsr.flags s'.cpsr.flags
  status : s'.cpsr = { s.cpsr with flags := s'.cpsr.flags }
  spsrFlags : ∀ m, K (.spsrFlags m) → (spsrOf m s').map Spsr.flags = (spsrOf m s).map Spsr.flags
  spsrControl : ∀ m, K (.spsrControl m) → (spsrOf m s').map Spsr.control = (spsrOf m s).map Spsr.control
  pc : s'.pc = s.pc
  mem : s'.mem = s.mem
  hazard : s'.ldmUserHazard = s.ldmUserHazard
  fault : s'.fault = s.fault
  completion : s'.armCompletion = s.armCompletion
  draws : s'.draws = s.draws

/-- The same outcome, with next states that agree on the parts known then. -/
inductive SameResult (K : UnwrittenPart → Prop) : Result → Result → Prop
  | next {t t' : State} (h : AgreeOn K t t') : SameResult K (.next t) (.next t')
  | fault (f : Fault) : SameResult K (.fault f) (.fault f)
  | refused (r : Refusal) : SameResult K (.refused r) (.refused r)

section
variable {K K' : UnwrittenPart → Prop} {ps qs : List UnwrittenPart} {s s' : State}

theorem FlagsAgree.mono {f f' : Flags} (sub : ∀ p ∈ flagParts, K' p → K p) (h : FlagsAgree K f f') : FlagsAgree K' f f' where
  n := fun known => h.n (sub _ (by simp [flagParts]) known)
  z := fun known => h.z (sub _ (by simp [flagParts]) known)
  c := fun known => h.c (sub _ (by simp [flagParts]) known)
  v := fun known => h.v (sub _ (by simp [flagParts]) known)

theorem FlagsAgree.refl (K : UnwrittenPart → Prop) (f : Flags) : FlagsAgree K f f :=
  ⟨fun _ => rfl, fun _ => rfl, fun _ => rfl, fun _ => rfl⟩

theorem FlagsAgree.eq {f f' : Flags} (h : FlagsAgree K f f') (known : Knows K flagParts) : f' = f := by
  obtain ⟨n, z, c, v⟩ := h
  have all : K .flagN ∧ K .flagZ ∧ K .flagC ∧ K .flagV := by simpa [Knows, flagParts] using known
  obtain ⟨kn, kz, kc, kv⟩ := all
  cases f
  cases f'
  simp_all

theorem AgreeOn.mono (sub : ∀ p, K' p → K p) (h : AgreeOn K s s') : AgreeOn K' s s' :=
  { h with
    regs := fun q known => h.regs q (sub _ known)
    flags := h.flags.mono fun p _ => sub p
    spsrFlags := fun m known => h.spsrFlags m (sub _ known)
    spsrControl := fun m known => h.spsrControl m (sub _ known) }

theorem SameResult.mono {r r' : Result} (sub : ∀ p, K' p → K p) (h : SameResult K r r') : SameResult K' r r' := by
  cases h with
  | next h => exact .next (h.mono sub)
  | fault f => exact .fault f
  | refused r => exact .refused r

theorem also_nil {p : UnwrittenPart} : Also K [] p ↔ K p := by simp [Also]

theorem also_append {p : UnwrittenPart} : Also K (ps ++ qs) p ↔ Also (Also K ps) qs p := by simp [Also, or_assoc]

theorem knows_append : Knows K (ps ++ qs) ↔ Knows K ps ∧ Knows K qs := List.forall_mem_append

theorem knows_regParts_cons {r : RegIdx} {rs : List RegIdx} :
    Knows K (regParts (r :: rs) s) ↔ Knows K (regPart s.cpsr.mode r) ∧ Knows K (regParts rs s) := knows_append

theorem knows_regPart_of_mem {r : RegIdx} {rs : List RegIdx} (h : Knows K (regParts rs s)) (member : r ∈ rs) :
    Knows K (regPart s.cpsr.mode r) := fun _ part => h _ (mem_regParts.mpr ⟨r, member, part⟩)

theorem not_flag_of_regPart {p : UnwrittenPart} (isFlag : p ∈ flagParts) {m : Mode} {r : RegIdx} : p ∉ regPart m r := by
  intro part
  obtain ⟨q, -, rfl⟩ := List.mem_map.mp part
  simp [flagParts] at isFlag

theorem not_flag_of_regParts {p : UnwrittenPart} (isFlag : p ∈ flagParts) {rs : List RegIdx} : p ∉ regParts rs s := by
  intro member
  obtain ⟨r, -, part⟩ := mem_regParts.mp member
  exact not_flag_of_regPart isFlag part

/-! ## Reads -/

/-- By an amount other than 0 a register shift gives its own carry (41_shifter R453). -/
theorem shiftByReg_carry_irrelevant (ty : ShiftType) (v : Word) {n : Nat} (pos : n ≠ 0) (c c' : Bool) :
    shiftByReg ty v n c' = shiftByReg ty v n c := by
  cases ty
  · rw [shiftByReg_lsl v c' pos, shiftByReg_lsl v c pos]
  · rw [shiftByReg_lsr v c' pos, shiftByReg_lsr v c pos]
  · rw [shiftByReg_asr v c' pos, shiftByReg_asr v c pos]
  · rw [shiftByReg_ror v c' pos, shiftByReg_ror v c pos]

namespace AgreeOn
variable (h : AgreeOn K s s')
include h

theorem mode : s'.cpsr.mode = s.cpsr.mode := by rw [h.status]

theorem readRegIn {m : Mode} {r : RegIdx} (known : Knows K (regPart m r)) : readRegIn m s' r = readRegIn m s r := by
  unfold Machine.readRegIn
  cases shown : view m r with
  | none => rw [h.pc]
  | some q => exact h.regs q (known _ (by simp [regPart, shown]))

theorem readReg {r : RegIdx} (known : Knows K (regPart s.cpsr.mode r)) : readReg s' r = readReg s r := by
  rw [Machine.readReg, h.mode]
  exact h.readRegIn known

theorem regParts (rs : List RegIdx) : regParts rs s' = regParts rs s := by rw [Machine.regParts, h.mode, Machine.regParts]

theorem carryKept {op2 : Operand2} (known : Knows K (operand2Reads op2 s)) : carryKept op2 s' = carryKept op2 s := by
  cases op2 with
  | imm | shiftImm => rfl
  | shiftReg rm ty rs =>
    rw [Machine.carryKept, h.readReg (knows_regPart_of_mem known (by simp)), Machine.carryKept]

/-- The value of operand 2; its carry-out as far as C is known or the shifter gives one. -/
theorem shiftOperand {op2 : Operand2} (known : Knows K (operand2Reads op2 s)) :
    (shiftOperand op2 s').value = (shiftOperand op2 s).value ∧
      (Machine.carryKept op2 s = false ∨ K .flagC → (shiftOperand op2 s').carry = (shiftOperand op2 s).carry) := by
  cases op2 with
  | imm rot imm8 =>
    refine ⟨(shiftRotatedImm_value ..).trans (shiftRotatedImm_value ..).symm, fun kept => ?_⟩
    refine (shiftRotatedImm_carry ..).trans (.trans ?_ (shiftRotatedImm_carry ..).symm)
    rcases kept with rotated | carry
    · have rotates : rot ≠ 0#4 := by simpa [Machine.carryKept] using rotated
      rw [if_neg rotates, if_neg rotates]
    · rw [h.flags.c carry]
  | shiftImm rm ty amount =>
    rw [shiftOperand_shiftImm, shiftOperand_shiftImm]
    cases ty with
    | lsl =>
      rw [h.readReg (knows_regPart_of_mem known (by simp)), shiftByImm_lsl, shiftByImm_lsl]
      refine ⟨rfl, fun kept => ?_⟩
      rcases kept with shifts | carry
      · have shifts : amount.toNat ≠ 0 := by
          simpa [Machine.carryKept, ← BitVec.toNat_inj] using shifts
        simp only [if_neg shifts]
      · rw [h.flags.c carry]
    | lsr =>
      rw [h.readReg (knows_regPart_of_mem known (by simp)), shiftByImm_lsr, shiftByImm_lsr]
      exact ⟨rfl, fun _ => rfl⟩
    | asr =>
      rw [h.readReg (knows_regPart_of_mem known (by simp)), shiftByImm_asr, shiftByImm_asr]
      exact ⟨rfl, fun _ => rfl⟩
    | ror =>
      obtain ⟨source, carry⟩ := knows_append.mp known
      rw [h.readReg (knows_regPart_of_mem source (by simp))]
      by_cases rotates : amount = 0#5
      · rw [h.flags.c (carry _ (by simp [rotates]))]
        exact ⟨rfl, fun _ => rfl⟩
      · have rotates : amount.toNat ≠ 0 := by simpa [← BitVec.toNat_inj] using rotates
        rw [shiftByImm_of_pos _ _ _ rotates, shiftByImm_of_pos _ _ _ rotates]
        exact ⟨rfl, fun _ => rfl⟩
  | shiftReg rm ty rs =>
    rw [shiftOperand_shiftReg, shiftOperand_shiftReg, h.readReg (knows_regPart_of_mem known (r := rm) (by simp)),
      h.readReg (knows_regPart_of_mem known (r := rs) (by simp))]
    by_cases shifts : (Machine.readReg s rs).toNat % 256 = 0
    · rw [shifts, shiftByReg_zero, shiftByReg_zero]
      refine ⟨rfl, fun kept => h.flags.c (kept.resolve_left ?_)⟩
      simp [Machine.carryKept, regAmount_eq, shifts]
    · rw [shiftByReg_carry_irrelevant ty _ shifts]
      exact ⟨rfl, fun _ => rfl⟩

theorem storeValue {r : RegIdx} (known : Knows K (regPart s.cpsr.mode r)) : storeValue s' r = storeValue s r := by
  rw [Machine.storeValue, Machine.storeValue, h.pc, h.readReg known]

theorem offsetValue {off : Offset} (known : Knows K (offsetReads off s)) : offsetValue off s' = offsetValue off s := by
  cases off with
  | imm => rfl
  | reg rm ty amount => exact (h.shiftOperand (op2 := .shiftImm rm ty amount) known).1

theorem halfOffsetValue {off : HalfOffset} (known : Knows K (Machine.regParts (halfOffsetRegs off) s)) :
    halfOffsetValue off s' = halfOffsetValue off s := by
  cases off with
  | imm => rfl
  | reg rm => exact h.readReg (knows_regPart_of_mem known (List.mem_singleton_self rm))

theorem drawn : drawn s' = drawn s := by rw [Machine.drawn, h.draws, Machine.drawn]

theorem blockAddress (pre up : Bool) {rn : RegIdx} (known : Knows K (regPart s.cpsr.mode rn)) (list : BitVec 16) :
    blockAddress pre up rn list s' = blockAddress pre up rn list s := by
  rw [Machine.blockAddress, h.readReg known, Machine.blockAddress]

/-- The saved flags of the mode, which a mode without an SPSR has none of. -/
theorem savedFlags (known : K (.spsrFlags s.cpsr.mode)) : (psrParts .spsr s').flags = (psrParts .spsr s).flags := by
  have agree := h.spsrFlags s.cpsr.mode known
  simp only [psrParts, h.mode]
  cases saved : spsrOf s.cpsr.mode s <;> cases saved' : spsrOf s.cpsr.mode s' <;> simp_all

theorem savedControl (known : K (.spsrControl s.cpsr.mode)) :
    (psrParts .spsr s').control = (psrParts .spsr s).control := by
  have agree := h.spsrControl s.cpsr.mode known
  simp only [psrParts, h.mode]
  cases saved : spsrOf s.cpsr.mode s <;> cases saved' : spsrOf s.cpsr.mode s' <;> simp_all

theorem savedStatus (known : Knows K (spsrParts s.cpsr.mode)) : psrParts .spsr s' = psrParts .spsr s := by
  have flags := h.savedFlags (known _ (by simp [spsrParts]))
  have control := h.savedControl (known _ (by simp [spsrParts]))
  exact congrArg₂ Spsr.mk flags control

/-! ## Writes -/

theorem give (ps : List UnwrittenPart) : AgreeOn K (give ps s) (give ps s') :=
  { h with
    spsrFlags := fun m known => by simpa using h.spsrFlags m known
    spsrControl := fun m known => by simpa using h.spsrControl m known }

theorem setPc (v : Word) : AgreeOn K { s with pc := v } { s' with pc := v } :=
  { h with
    pc := rfl
    spsrFlags := fun m known => by cases m <;> exact h.spsrFlags _ known
    spsrControl := fun m known => by cases m <;> exact h.spsrControl _ known }

theorem stepPc : AgreeOn K (stepPc s) (stepPc s') := by
  rw [Machine.stepPc, Machine.stepPc, h.pc]
  exact h.setPc _

theorem setMem (m : Memory) : AgreeOn K { s with mem := m } { s' with mem := m } :=
  { h with
    mem := rfl
    spsrFlags := fun m known => by cases m <;> exact h.spsrFlags _ known
    spsrControl := fun m known => by cases m <;> exact h.spsrControl _ known }

theorem setHazard (b : Bool) : AgreeOn K { s with ldmUserHazard := b } { s' with ldmUserHazard := b } :=
  { h with
    hazard := rfl
    spsrFlags := fun m known => by cases m <;> exact h.spsrFlags _ known
    spsrControl := fun m known => by cases m <;> exact h.spsrControl _ known }

theorem afterDraw : AgreeOn K (afterDraw s) (afterDraw s') :=
  { h with
    draws := congrArg (· + 1) h.draws
    spsrFlags := fun m known => by simpa using h.spsrFlags m known
    spsrControl := fun m known => by simpa using h.spsrControl m known }

/-- The CPSR replaced by two that agree on the flags known afterwards. -/
theorem setCpsr {c c' : Cpsr} (ps : List UnwrittenPart) (isFlags : ps ⊆ flagParts) (status : c' = { c with flags := c'.flags })
    (flags : FlagsAgree (Also K ps) c.flags c'.flags) :
    AgreeOn (Also K ps) { s with cpsr := c } { s' with cpsr := c' } := by
  have known {p : UnwrittenPart} (noFlag : p ∉ flagParts) (also : Also K ps p) : K p :=
    also.resolve_right fun member => noFlag (isFlags member)
  exact { h with
    regs := fun q also => h.regs q (known (by simp [flagParts]) also)
    flags := flags
    status := status
    spsrFlags := fun m also => by cases m <;> exact h.spsrFlags _ (known (by simp [flagParts]) also)
    spsrControl := fun m also => by cases m <;> exact h.spsrControl _ (known (by simp [flagParts]) also) }

theorem setFlags {f f' : Flags} (ps : List UnwrittenPart) (isFlags : ps ⊆ flagParts)
    (flags : FlagsAgree (Also K ps) f f') : AgreeOn (Also K ps) (setFlags ps f s) (setFlags ps f' s') :=
  (h.setCpsr ps isFlags (by rw [h.status]) flags).give ps

theorem writeRegIn (m : Mode) (r : RegIdx) (v : Word) :
    AgreeOn (Also K (regPart m r)) (writeRegIn m r v s) (writeRegIn m r v s') := by
  cases shown : view m r with
  | none =>
    rw [Machine.writeRegIn, Machine.writeRegIn, shown]
    exact h.mono fun p also => by simpa [Also, regPart, shown] using also
  | some q =>
    rw [writeRegIn_of_view v s shown, writeRegIn_of_view v s' shown]
    have part : regPart m r = [.reg q] := by simp [regPart, shown]
    rw [part]
    refine AgreeOn.give ?_ _
    have known {p : UnwrittenPart} (other : p ≠ .reg q) (also : Also K [.reg q] p) : K p :=
      also.resolve_right fun member => other (List.mem_singleton.mp member)
    exact { h with
      regs := fun q' also => by
        rw [regs_get_set, regs_get_set]
        split
        · rfl
        · next other => exact h.regs q' (known (fun same => other (UnwrittenPart.reg.inj same).symm) also)
      flags := h.flags.mono fun p isFlag => known fun reg => by simp [reg, flagParts] at isFlag
      spsrFlags := fun m also => by cases m <;> exact h.spsrFlags _ (known (by simp) also)
      spsrControl := fun m also => by cases m <;> exact h.spsrControl _ (known (by simp) also) }

theorem writeReg (r : RegIdx) (v : Word) :
    AgreeOn (Also K (Machine.regParts [r] s)) (writeReg r v s) (writeReg r v s') := by
  rw [Machine.writeReg, Machine.writeReg, h.mode]
  exact (h.writeRegIn s.cpsr.mode r v).mono fun p also => by simpa [Machine.regParts] using also

theorem setFlagsIf {f f' : Flags} (sf : Bool) (ps : List UnwrittenPart) (isFlags : ps ⊆ flagParts)
    (flags : sf = true → FlagsAgree (Also K ps) f f') :
    AgreeOn (Also K (if sf then ps else [])) (setFlagsIf sf ps f s) (setFlagsIf sf ps f' s') := by
  cases sf with
  | false => exact h.mono fun p => also_nil.mp
  | true => exact h.setFlags ps isFlags (flags rfl)

/-- A saved status replaced by two that agree on its parts known afterwards. -/
theorem setSpsr {m : Mode} {p p' : Spsr} (sub : ∀ q, K' q → K q ∨ q ∈ spsrParts m)
    (flags : K' (.spsrFlags m) → p'.flags = p.flags) (control : K' (.spsrControl m) → p'.control = p.control) :
    AgreeOn K' (setSpsr m p s) (setSpsr m p' s') := by
  have known {q : UnwrittenPart} (other : q ∉ spsrParts m) (h' : K' q) : K q := (sub q h').resolve_right other
  have unwrittenSpsr (n : Mode) (other : ¬(n = m ∧ m.hasSpsr = true)) :
      (spsrOf n s = none ∧ spsrOf n s' = none) ∨ n ≠ m := by
    by_cases same : n = m
    · subst same
      have hasNone : n.hasSpsr = false := Bool.eq_false_iff.mpr fun has => other ⟨rfl, has⟩
      exact .inl ⟨(hasSpsr_eq_false_iff s).mp hasNone, (hasSpsr_eq_false_iff s').mp hasNone⟩
    · exact .inr same
  exact {
    regs := fun q k => by simpa using h.regs q (known (by simp [spsrParts]) k)
    flags := by
      rw [setSpsr_cpsr, setSpsr_cpsr]
      refine h.flags.mono fun p isFlag => known fun saved => ?_
      rcases List.mem_pair.mp saved with rfl | rfl <;> simp [flagParts] at isFlag
    status := by simpa using h.status
    spsrFlags := fun n k => by
      rw [spsrOf_setSpsr, spsrOf_setSpsr]
      split
      · next this =>
        obtain ⟨rfl, -⟩ := this
        exact congrArg some (flags k)
      · next other =>
        rcases unwrittenSpsr n other with ⟨none, none'⟩ | distinct
        · rw [none, none']
        · exact h.spsrFlags n (known (by simp [spsrParts, distinct]) k)
    spsrControl := fun n k => by
      rw [spsrOf_setSpsr, spsrOf_setSpsr]
      split
      · next this =>
        obtain ⟨rfl, -⟩ := this
        exact congrArg some (control k)
      · next other =>
        rcases unwrittenSpsr n other with ⟨none, none'⟩ | distinct
        · rw [none, none']
        · exact h.spsrControl n (known (by simp [spsrParts, distinct]) k)
    pc := by simpa using h.pc
    mem := by simpa using h.mem
    hazard := by simpa using h.hazard
    fault := by simpa using h.fault
    completion := by simpa using h.completion
    draws := by simpa using h.draws }

/-- Registers loaded with the same values. -/
theorem loadRegs (user : Bool) (values : List (RegIdx × Word)) :
    AgreeOn (Also K ((values.map Prod.fst).flatMap (regPart (if user then .usr else s.cpsr.mode))))
      (loadRegs user values s) (loadRegs user values s') := by
  induction values generalizing s s' K with
  | nil => exact h.mono fun p => also_nil.mp
  | cons rv rest ih =>
    rw [loadRegs_cons, loadRegs_cons, h.mode]
    have agree := ih (h.writeRegIn (if user then .usr else s.cpsr.mode) rv.1 rv.2)
    rw [writeRegIn_cpsr] at agree
    exact agree.mono fun p => also_append.mp

theorem ldmWriteback (wback : Bool) (rn : RegIdx) (list : BitVec 16) (final : Word) :
    AgreeOn (Also K (if wback && !(listRegs list).contains rn then Machine.regParts [rn] s else []))
      (ldmWriteback wback rn list final s) (ldmWriteback wback rn list final s') := by
  rw [Machine.ldmWriteback, Machine.ldmWriteback]
  split
  · exact h.writeReg rn final
  · exact h.mono fun p => also_nil.mp

theorem afterLoads (user pre up wback : Bool) {rn : RegIdx} (base : Knows K (regPart s.cpsr.mode rn)) (list : BitVec 16) :
    AgreeOn (Also (Also K (if wback && !(listRegs list).contains rn then Machine.regParts [rn] s else []))
        ((listRegs list).flatMap (regPart (if user then .usr else s.cpsr.mode))))
      (afterLoads user pre up wback rn list s) (afterLoads user pre up wback rn list s') := by
  rw [Machine.afterLoads, Machine.afterLoads, h.blockAddress pre up base, h.mem]
  have agree := (h.ldmWriteback wback rn list (Machine.blockAddress pre up rn list s).final).loadRegs user
    (ldmValues list (Machine.blockAddress pre up rn list s).start s.mem)
  rwa [map_fst_ldmValues, ldmWriteback_cpsr] at agree

/-! ## Ends of the handlers -/

theorem writePc (v : Word) : SameResult K (writePc v s) (writePc v s') := by
  rw [Machine.writePc, Machine.writePc]
  split
  · exact .fault _
  · exact .next (h.setPc v)

theorem writeResult (rd : RegIdx) (v : Word) :
    SameResult (Also K (Machine.regParts [rd] s)) (writeResult rd v s) (writeResult rd v s') := by
  rw [Machine.writeResult, Machine.writeResult]
  split
  · next pc =>
    subst pc
    exact (h.writePc v).mono fun p also => by simpa [Also, Machine.regParts, regPart_pc] using also
  · exact .next (h.writeReg rd v).stepPc

theorem resumeAt (target : Word) (p : Spsr) :
    SameResult (Also K flagParts) (resumeAt target p s) (resumeAt target p s') := by
  rw [Machine.resumeAt, Machine.resumeAt]
  split
  · exact .fault _
  · next c restored =>
    have agree := h.setCpsr (c := c) (c' := c) flagParts (List.Subset.refl _) rfl (.refl ..)
    split
    · exact .next ((agree.setPc _).give _)
    · exact (agree.give _).writePc _

theorem storeAll (ws : List (Word × List Byte)) :
    AgreeOn K { s with mem := storeAll s.mem ws } { s' with mem := storeAll s'.mem ws } := by
  rw [h.mem]
  exact h.setMem _

omit h in
theorem store (pc : s'.pc = s.pc) (ws : List (Word × List Byte)) {rest : State → State}
    (ends : AgreeOn K (rest { s with mem := Machine.storeAll s.mem ws })
      (rest { s' with mem := Machine.storeAll s'.mem ws })) :
    SameResult K (store ws s rest) (store ws s' rest) := by
  have hit : storeHit s'.pc ws = storeHit s.pc ws := by rw [pc]
  rw [Machine.store, Machine.store, hit]
  split
  · exact .fault _
  · exact .next ends

theorem branchExchange (v : Word) : SameResult K (branchExchange v s) (branchExchange v s') := by
  rw [Machine.branchExchange, Machine.branchExchange]
  split
  · have flags : FlagsAgree (Also K []) s.cpsr.flags s'.cpsr.flags := h.flags.mono fun p _ => also_nil.mp
    have agree := h.setCpsr (c := { s.cpsr with t := true }) (c' := { s'.cpsr with t := true }) []
      (List.nil_subset _) (by rw [h.status]) flags
    exact .next ((agree.mono fun p => also_nil.mpr).setPc _)
  · split
    · exact .fault _
    · exact .next (h.setPc v)

end AgreeOn

/-! ## The effects of the instructions -/

/-- What is known after an instruction: what was known and what it gives, but of the flags that an exception entry saves only
if all four were known. -/
def KnownAfter (i : Instr) (K : UnwrittenPart → Prop) (s : State) (p : UnwrittenPart) : Prop :=
  Also K (gives i s) p ∧ ∀ m, savesInto i = some m → p = .spsrFlags m → Knows K flagParts

section
variable {i : Instr}

/-- An instruction that enters no exception needs no more. -/
theorem SameResult.knownAfter {r r' : Result} (h : SameResult (Also K (gives i s)) r r') :
    SameResult (KnownAfter i K s) r r' := h.mono fun _ known => known.1

theorem AgreeOn.resultCore (h : AgreeOn K s s') (sf : Bool) (rd : RegIdx) (given : List UnwrittenPart)
    (isFlags : given ⊆ flagParts) {out out' : Word × Flags} (value : out'.1 = out.1)
    (flags : FlagsAgree (Also K given) out.2 out'.2)
    (saved : sf = true ∧ rd = 15 → Knows K (spsrParts s.cpsr.mode)) :
    SameResult (Also K (Machine.regParts [rd] s ++ if sf then if rd = 15 then flagParts else given else []))
      (resultCore sf rd given out s) (resultCore sf rd given out' s') := by
  rw [Machine.resultCore, Machine.resultCore, value]
  by_cases form : sf = true ∧ rd = 15
  · rw [if_pos form, if_pos form, h.savedStatus (saved form)]
    obtain ⟨rfl, rfl⟩ := form
    exact (h.resumeAt _ _).mono fun p also => by simpa [Machine.regParts, regPart_pc] using also
  · rw [if_neg form, if_neg form, finishResult, finishResult, value]
    by_cases pc : rd = 15
    · have noFlags : sf = false := Bool.eq_false_iff.mpr fun sf => form ⟨sf, pc⟩
      subst pc noFlags
      exact (h.writePc _).mono fun p also => by simpa [Also, Machine.regParts, regPart_pc] using also
    · rw [if_neg pc, if_neg pc, if_neg pc]
      refine .next (AgreeOn.stepPc (.mono (fun p => also_append.mp) ?_))
      refine (h.writeReg rd out.1).setFlagsIf sf given isFlags fun _ => flags.mono fun p isFlag also => ?_
      exact also.imp_left fun known => known.resolve_right (not_flag_of_regParts isFlag)

end

end

end Sys2Proof.Machine
end

section
/-! PROOFS. The effect of an instruction is the same in two states that agree on what it depends on (10_state R121). -/

namespace Sys2Proof.Machine

variable {K : UnwrittenPart → Prop} {s s' : State} {i : Instr}

/-! ## Data processing -/

theorem gives_subset_flagParts (kind : AluKind) (kept : Bool) : kind.gives kept ⊆ flagParts := by
  cases kind <;> cases kept <;> simp [AluKind.gives, flagParts]

theorem knows_returnParts {sf : Bool} {rd : RegIdx} (known : Knows K (returnParts sf rd s)) (form : sf = true ∧ rd = 15) :
    Knows K (spsrParts s.cpsr.mode) := by
  rwa [returnParts, if_pos form] at known

/-- Registers given one after another. -/
theorem also_regParts_cons {r : RegIdx} {rs : List RegIdx} {p : UnwrittenPart} :
    Also K (regParts (r :: rs) s) p ↔ Also (Also K (regParts rs s)) (regParts [r] s) p := by
  have parts : regParts (r :: rs) s = regPart s.cpsr.mode r ++ regParts rs s := rfl
  have single : regParts [r] s = regPart s.cpsr.mode r := List.append_nil _
  rw [parts, single, Also, Also, Also, List.mem_append, or_comm (a := p ∈ regPart _ r), or_assoc]

/-- The same checks before outcomes that are the same where they pass. -/
theorem SameResult.checked {cs : List (Bool × Fault)} {r r' : Result}
    (h : (∀ c ∈ cs, c.1 = false) → SameResult K r r') : SameResult K (checked cs r) (checked cs r') := by
  induction cs with
  | nil => exact h (by simp)
  | cons c rest ih =>
    obtain ⟨holds, f⟩ := c
    cases holds with
    | true => exact .fault f
    | false => exact ih fun pass => h (by simpa using pass)

namespace AgreeOn
variable (h : AgreeOn K s s')
include h

/-- Logical flags: C as far as it is known or the shifter gives it, V as far as it is known (42_data R505). -/
theorem logicalFlags {op2 : Operand2} (known : Knows K (operand2Reads op2 s)) (v : Word) :
    FlagsAgree (Also K (AluKind.logical.gives (Machine.carryKept op2 s)))
      (logicalFlags v (Machine.shiftOperand op2 s).carry s.cpsr.flags)
      (logicalFlags v (Machine.shiftOperand op2 s').carry s'.cpsr.flags) where
  n := fun _ => rfl
  z := fun _ => rfl
  c := fun also => (h.shiftOperand known).2 <| by
    cases kept : Machine.carryKept op2 s with
    | false => exact .inl rfl
    | true => exact .inr (by simpa [Also, AluKind.gives, kept] using also)
  v := fun also => h.flags.v <| by
    cases kept : Machine.carryKept op2 s <;> simpa [Also, AluKind.gives, kept] using also

/-- A logical opcode that reads Rn and operand 2 (42_data R505). -/
theorem logicalCore {sf : Bool} {rn rd : RegIdx} {op2 : Operand2} {f : Word → Shifted → Flags → Word × Flags}
    (g : Word → Word → Word) (logical : ∀ a b old, f a b old = withLogicalFlags (g a b.value) b.carry old)
    (known : Knows K (Machine.regParts [rn] s ++ operand2Reads op2 s ++ returnParts sf rd s)) :
    SameResult (Also K (Machine.regParts [rd] s ++ if sf then if rd = 15 then flagParts else logicalWrite op2 s else []))
      (dataCore .logical sf rn rd op2 f s) (dataCore .logical sf rn rd op2 f s') := by
  obtain ⟨known, saved⟩ := knows_append.mp known
  obtain ⟨base, operand⟩ := knows_append.mp known
  rw [dataCore, dataCore, h.carryKept operand, logical, logical, h.readReg (knows_regPart_of_mem base (by simp)),
    (h.shiftOperand operand).1, ← logical_gives_eq_logicalWrite]
  exact h.resultCore sf rd _ (gives_subset_flagParts ..) rfl (h.logicalFlags operand _) (knows_returnParts saved)

/-- MOV and MVN (42_data R505). -/
theorem moveCore {sf : Bool} {rd : RegIdx} {op2 : Operand2} {f : Shifted → Flags → Word × Flags} (g : Word → Word)
    (logical : ∀ b old, f b old = withLogicalFlags (g b.value) b.carry old)
    (known : Knows K (operand2Reads op2 s ++ returnParts sf rd s)) :
    SameResult (Also K (Machine.regParts [rd] s ++ if sf then if rd = 15 then flagParts else logicalWrite op2 s else []))
      (moveCore sf rd op2 f s) (moveCore sf rd op2 f s') := by
  obtain ⟨operand, saved⟩ := knows_append.mp known
  rw [Machine.moveCore, Machine.moveCore, h.carryKept operand, logical, logical, (h.shiftOperand operand).1,
    ← logical_gives_eq_logicalWrite]
  exact h.resultCore sf rd _ (gives_subset_flagParts ..) rfl (h.logicalFlags operand _) (knows_returnParts saved)

/-- TST and TEQ (42_data R505). -/
theorem logicalTest {rn : RegIdx} {op2 : Operand2} {f : Word → Shifted → Flags → Word × Flags}
    (g : Word → Word → Word) (logical : ∀ a b old, f a b old = withLogicalFlags (g a b.value) b.carry old)
    (known : Knows K (Machine.regParts [rn] s ++ operand2Reads op2 s)) :
    SameResult (Also K (logicalWrite op2 s)) (testCore .logical rn op2 f s) (testCore .logical rn op2 f s') := by
  obtain ⟨base, operand⟩ := knows_append.mp known
  rw [testCore, testCore, h.carryKept operand, logical, logical, h.readReg (knows_regPart_of_mem base (by simp)),
    (h.shiftOperand operand).1, ← logical_gives_eq_logicalWrite]
  exact .next (h.setFlags _ (gives_subset_flagParts ..) (h.logicalFlags operand _)).stepPc

/-- An opcode that writes all four flags from the values it reads (42_data R504). -/
theorem dataCore_of_same {kind : AluKind} {sf : Bool} {rn rd : RegIdx} {op2 : Operand2}
    {f : Word → Shifted → Flags → Word × Flags} (writesAll : ∀ kept, kind.gives kept = flagParts)
    (base : Knows K (Machine.regParts [rn] s)) (saved : Knows K (returnParts sf rd s))
    (same : ∀ a, f a (Machine.shiftOperand op2 s') s'.cpsr.flags = f a (Machine.shiftOperand op2 s) s.cpsr.flags) :
    SameResult (Also K (Machine.regParts [rd] s ++ if sf then flagParts else []))
      (dataCore kind sf rn rd op2 f s) (dataCore kind sf rn rd op2 f s') := by
  rw [dataCore, dataCore, writesAll, writesAll, h.readReg (knows_regPart_of_mem base (by simp)), same]
  refine (h.resultCore sf rd flagParts (List.Subset.refl _) rfl (.refl ..) (knows_returnParts saved)).mono fun p also => ?_
  rwa [ite_self]

theorem arithmeticCore {sf : Bool} {rn rd : RegIdx} {op2 : Operand2} {f : Word → Shifted → Flags → Word × Flags}
    (computes : ∀ a b b' old old', b'.value = b.value → f a b' old' = f a b old)
    (known : Knows K (Machine.regParts [rn] s ++ operand2Reads op2 s ++ returnParts sf rd s)) :
    SameResult (Also K (Machine.regParts [rd] s ++ if sf then flagParts else []))
      (dataCore .arithmetic sf rn rd op2 f s) (dataCore .arithmetic sf rn rd op2 f s') := by
  obtain ⟨known, saved⟩ := knows_append.mp known
  obtain ⟨base, operand⟩ := knows_append.mp known
  exact h.dataCore_of_same (fun _ => rfl) base saved fun a => computes _ _ _ _ _ (h.shiftOperand operand).1

/-- ADC, SBC and RSC read C (42_data R510 item 5). -/
theorem carryCore {sf : Bool} {rn rd : RegIdx} {op2 : Operand2} {f : Word → Shifted → Flags → Word × Flags}
    (computes : ∀ a b b' old old', b'.value = b.value → old'.c = old.c → f a b' old' = f a b old)
    (known : Knows K (Machine.regParts [rn] s ++ operand2Reads op2 s ++ [.flagC] ++ returnParts sf rd s)) :
    SameResult (Also K (Machine.regParts [rd] s ++ if sf then flagParts else []))
      (dataCore .carryIn sf rn rd op2 f s) (dataCore .carryIn sf rn rd op2 f s') := by
  obtain ⟨known, saved⟩ := knows_append.mp known
  obtain ⟨known, carry⟩ := knows_append.mp known
  obtain ⟨base, operand⟩ := knows_append.mp known
  exact h.dataCore_of_same (fun _ => rfl) base saved fun a =>
    computes _ _ _ _ _ (h.shiftOperand operand).1 (h.flags.c (carry _ (by simp)))

/-- CMP and CMN (42_data R504). -/
theorem arithmeticTest {rn : RegIdx} {op2 : Operand2} {f : Word → Shifted → Flags → Word × Flags}
    (computes : ∀ a b b' old old', b'.value = b.value → f a b' old' = f a b old)
    (known : Knows K (Machine.regParts [rn] s ++ operand2Reads op2 s)) :
    SameResult (Also K flagParts) (testCore .arithmetic rn op2 f s) (testCore .arithmetic rn op2 f s') := by
  obtain ⟨base, operand⟩ := knows_append.mp known
  rw [testCore, testCore, h.readReg (knows_regPart_of_mem base (by simp)),
    computes _ _ _ s.cpsr.flags s'.cpsr.flags (h.shiftOperand operand).1]
  exact .next (h.setFlags flagParts (List.Subset.refl _) (.refl ..)).stepPc

/-! ## Multiplies -/

theorem finishMultiply (sf : Bool) (rd : RegIdx) (v : Word) :
    SameResult (Also K (Machine.regParts [rd] s ++ if sf then multiplyParts else []))
      (finishMultiply sf rd v s) (finishMultiply sf rd v s') := by
  cases sf with
  | false => exact (h.writeResult rd v).mono fun p => by simp
  | true =>
    have flags : FlagsAgree (Also K multiplyParts) (multiplyFlags v (Machine.drawn s) s.cpsr.flags)
        (multiplyFlags v (Machine.drawn s') s'.cpsr.flags) := by
      rw [h.drawn]
      refine ⟨fun _ => rfl, fun _ => rfl, fun _ => rfl, fun also => h.flags.v ?_⟩
      simpa [Also, multiplyParts] using also
    refine ((h.setFlags multiplyParts (by simp [multiplyParts, flagParts]) flags).afterDraw.writeResult rd v).mono
      fun p => ?_
    simp only [Also, List.mem_append, if_true]
    exact fun also => also.elim (.inl ∘ .inl) fun given => given.elim .inr (.inl ∘ .inr)

theorem longCore {a sf : Bool} {rdHi rdLo rs rm : RegIdx} {product : Word → Word → BitVec 64}
    (known : Knows K (Machine.regParts (longSources a rdHi rdLo rs rm) s)) :
    SameResult (Also K (Machine.regParts [rdHi, rdLo] s ++ if sf then flagParts else []))
      (longCore a sf rdHi rdLo rs rm product s) (longCore a sf rdHi rdLo rs rm product s') := by
  have reads (r : RegIdx) (member : r ∈ longSources a rdHi rdLo rs rm) := h.readReg (knows_regPart_of_mem known member)
  have added : (if a then accumulator rdHi rdLo s' else 0#64) = if a then accumulator rdHi rdLo s else 0#64 := by
    cases a with
    | false => simp only [Bool.false_eq_true, if_false]
    | true => simp only [if_true, accumulator, reads rdHi (by simp [longSources]), reads rdLo (by simp [longSources])]
  have halves (hi lo : Word) :
      AgreeOn (Also K (Machine.regParts [rdHi, rdLo] s)) (Machine.writeReg rdHi hi (Machine.writeReg rdLo lo s))
        (Machine.writeReg rdHi hi (Machine.writeReg rdLo lo s')) := by
    refine ((h.writeReg rdLo lo).writeReg rdHi hi).mono fun p also => ?_
    rw [regParts_writeReg]
    exact also_regParts_cons.mp also
  rw [Machine.longCore, Machine.longCore, reads rm (by cases a <;> simp [longSources]),
    reads rs (by cases a <;> simp [longSources]), added]
  generalize product (Machine.readReg s rm) (Machine.readReg s rs) + (if a then accumulator rdHi rdLo s else 0#64) = r
  have agree := halves (r.extractLsb' 32 32) (r.extractLsb' 0 32)
  simp only [finishLongMultiply, h.drawn]
  cases sf with
  | false => exact .next (agree.mono fun p => by simp).stepPc
  | true =>
    have flagged := agree.setFlags flagParts (List.Subset.refl _) (.refl _ (multiplyLongFlags r (Machine.drawn s)))
    exact .next (flagged.afterDraw.mono fun p => also_append.mp).stepPc

/-! ## Transfers -/

theorem finishLoad (rn rd : RegIdx) (ix : Indexed) (data : Word) :
    SameResult (Also K (Machine.regParts (if ix.wb then [rd, rn] else [rd]) s))
      (finishLoad rn rd ix data s) (finishLoad rn rd ix data s') := by
  rw [Machine.finishLoad, Machine.finishLoad]
  cases moves : ix.wb with
  | false => exact h.writeResult rd data
  | true =>
    by_cases same : rd = rn
    · subst same
      rw [bne_self_eq_false]
      refine (h.writeResult rd data).mono fun p also => ?_
      exact (also_regParts_cons.mp also).elim id .inr
    · rw [bne_iff_ne.mpr same]
      refine ((h.writeReg rn ix.moved).writeResult rd data).mono fun p also => ?_
      rw [regParts_writeReg]
      exact also_regParts_cons.mp also

/-- Stores with the same bytes at the same addresses, and the writeback. -/
theorem storeBack (ws : List (Word × List Byte)) (b : Bool) (rn : RegIdx) (v : Word) :
    SameResult (Also K (Machine.regParts (if b then [rn] else []) s))
      (Machine.store ws s fun t => Machine.stepPc (if b then Machine.writeReg rn v t else t))
      (Machine.store ws s' fun t => Machine.stepPc (if b then Machine.writeReg rn v t else t)) := by
  refine AgreeOn.store h.pc ws (AgreeOn.stepPc ?_)
  cases b with
  | false => exact (h.storeAll ws).mono fun p => also_nil.mp
  | true => exact (h.storeAll ws).writeReg rn v

theorem swapCore {rn rd rm : RegIdx} {read : Memory → Word → Word} {align : Word → Word} {bytes : Word → List Byte}
    (known : Knows K (Machine.regParts [rn, rm] s)) :
    SameResult (Also K (Machine.regParts [rd] s))
      (swapCore rn rd rm read align bytes s) (swapCore rn rd rm read align bytes s') := by
  rw [Machine.swapCore, Machine.swapCore, h.readReg (knows_regPart_of_mem known (by simp)),
    h.readReg (knows_regPart_of_mem known (by simp)), h.mem]
  exact h.storeBack _ true rd _

theorem singleAddress {pre up wback : Bool} {rn : RegIdx} {off : Offset} (base : Knows K (regPart s.cpsr.mode rn))
    (offset : Knows K (offsetReads off s)) :
    singleAddress pre up wback rn off s' = singleAddress pre up wback rn off s := by
  rw [Machine.singleAddress, h.readReg base, h.offsetValue offset, Machine.singleAddress]

theorem halfwordAddress {pre up wback : Bool} {rn : RegIdx} {off : HalfOffset} (base : Knows K (regPart s.cpsr.mode rn))
    (offset : Knows K (Machine.regParts (halfOffsetRegs off) s)) :
    halfwordAddress pre up wback rn off s' = halfwordAddress pre up wback rn off s := by
  rw [Machine.halfwordAddress, h.readReg base, h.halfOffsetValue offset, Machine.halfwordAddress]

theorem loadCore {read : Memory → Word → Word} {pre up wback : Bool} {rn rd : RegIdx} {off : Offset}
    (known : Knows K (Machine.regParts [rn] s ++ offsetReads off s)) :
    SameResult (Also K (Machine.regParts (if !pre || wback then [rd, rn] else [rd]) s))
      (loadCore read pre up wback rn rd off s) (loadCore read pre up wback rn rd off s') := by
  obtain ⟨base, offset⟩ := knows_append.mp known
  rw [Machine.loadCore, Machine.loadCore, h.singleAddress (knows_regPart_of_mem base (by simp)) offset, h.mem]
  exact h.finishLoad rn rd (Machine.singleAddress pre up wback rn off s) _

theorem storeCore {align : Word → Word} {bytes : Word → List Byte} {pre up wback : Bool} {rn rd : RegIdx} {off : Offset}
    (known : Knows K (Machine.regParts [rn, rd] s ++ offsetReads off s)) :
    SameResult (Also K (Machine.regParts (if !pre || wback then [rn] else []) s))
      (storeCore align bytes pre up wback rn rd off s) (storeCore align bytes pre up wback rn rd off s') := by
  obtain ⟨registers, offset⟩ := knows_append.mp known
  rw [Machine.storeCore, Machine.storeCore, h.singleAddress (knows_regPart_of_mem registers (by simp)) offset,
    h.storeValue (knows_regPart_of_mem registers (by simp))]
  exact h.storeBack ..

theorem halfLoadCore {read : Memory → Word → Word} {pre up wback : Bool} {rn rd : RegIdx} {off : HalfOffset}
    (known : Knows K (Machine.regParts (rn :: halfOffsetRegs off) s)) :
    SameResult (Also K (Machine.regParts (if !pre || wback then [rd, rn] else [rd]) s))
      (halfLoadCore read pre up wback rn rd off s) (halfLoadCore read pre up wback rn rd off s') := by
  obtain ⟨base, offset⟩ := knows_regParts_cons.mp known
  rw [Machine.halfLoadCore, Machine.halfLoadCore, h.halfwordAddress base offset, h.mem]
  exact h.finishLoad rn rd (Machine.halfwordAddress pre up wback rn off s) _

theorem halfStoreCore {pre up wback : Bool} {rn rd : RegIdx} {off : HalfOffset}
    (known : Knows K (Machine.regParts (rn :: rd :: halfOffsetRegs off) s)) :
    SameResult (Also K (Machine.regParts (if !pre || wback then [rn] else []) s))
      (halfStoreCore pre up wback rn rd off s) (halfStoreCore pre up wback rn rd off s') := by
  obtain ⟨base, known⟩ := knows_regParts_cons.mp known
  obtain ⟨data, offset⟩ := knows_regParts_cons.mp known
  rw [Machine.halfStoreCore, Machine.halfStoreCore, h.halfwordAddress base offset, h.storeValue data]
  exact h.storeBack ..

/-! ## Block transfers -/

theorem ldmPc {rn : RegIdx} (base : Knows K (regPart s.cpsr.mode rn)) (pre up : Bool) (list : BitVec 16) :
    ldmPc pre up rn list s' = ldmPc pre up rn list s := by
  rw [Machine.ldmPc, h.blockAddress pre up base, h.mem, Machine.ldmPc]

/-- The loads of the current bank: a listed base is loaded with or without the writeback. -/
theorem currentLoads {rn : RegIdx} (base : Knows K (regPart s.cpsr.mode rn)) (pre up wback : Bool) (list : BitVec 16) :
    AgreeOn (Also K (Machine.regParts (if wback then rn :: listRegs list else listRegs list) s))
      (Machine.afterLoads false pre up wback rn list s) (Machine.afterLoads false pre up wback rn list s') := by
  refine (h.afterLoads false pre up wback base list).mono fun p also => ?_
  rcases also with known | given
  · exact .inl (.inl known)
  · cases wback with
    | false => exact .inr given
    | true =>
      obtain ⟨r, member, part⟩ := mem_regParts.mp given
      rcases List.mem_cons.mp member with rfl | listed
      · by_cases listed : r ∈ listRegs list
        · exact .inr (List.mem_flatMap.mpr ⟨r, listed, part⟩)
        · exact .inl (.inr (by simpa [listed, Machine.regParts] using part))
      · exact .inr (List.mem_flatMap.mpr ⟨r, listed, part⟩)

theorem finishLdm {pre up wback : Bool} {rn : RegIdx} {list : BitVec 16} (known : Knows K (Machine.regParts [rn] s)) :
    SameResult (Also K (Machine.regParts (if wback then rn :: listRegs list else listRegs list) s))
      (finishLdm pre up wback rn list s) (finishLdm pre up wback rn list s') := by
  have base := knows_regPart_of_mem known (List.mem_singleton_self rn)
  have agree := h.currentLoads base pre up wback list
  simp only [Machine.finishLdm, h.ldmPc base]
  cases Machine.ldmPc pre up rn list s with
  | some v => exact agree.writePc v
  | none => exact .next agree.stepPc

theorem ldmRetCore {pre up wback : Bool} {rn : RegIdx} {list : BitVec 16} (pc : 15 ∈ listRegs list)
    (known : Knows K (Machine.regParts [rn] s ++ spsrParts s.cpsr.mode)) :
    SameResult (Also K (Machine.regParts (if wback then rn :: listRegs list else listRegs list) s ++ flagParts))
      (ldmRetCore pre up wback rn list s) (ldmRetCore pre up wback rn list s') := by
  obtain ⟨known, saved⟩ := knows_append.mp known
  have base := knows_regPart_of_mem known (List.mem_singleton_self rn)
  obtain ⟨v, loaded⟩ := Option.isSome_iff_exists.mp ((isSome_ldmPc pre up rn list s).mpr pc)
  have loaded' := (h.ldmPc base pre up list).trans loaded
  simp only [Machine.ldmRetCore, loaded, loaded']
  rw [h.savedStatus saved]
  exact ((h.currentLoads base ..).resumeAt v _).mono fun p => also_append.mp

theorem finishLdmUser {pre up : Bool} {rn : RegIdx} {list : BitVec 16} (known : Knows K (Machine.regParts [rn] s)) :
    SameResult (Also K (userParts (listRegs list)))
      (finishLdmUser pre up rn list s) (finishLdmUser pre up rn list s') := by
  have base := knows_regPart_of_mem known (List.mem_singleton_self rn)
  exact .next (((h.afterLoads true pre up false base list).mono fun p also => also.imp_left .inl).setHazard true).stepPc

theorem stmWrites {user wback : Bool} {rn : RegIdx} {list : BitVec 16} {ba : BlockAddress}
    (known : Knows K ((listRegs list).flatMap (regPart (if user then .usr else s.cpsr.mode)))) :
    stmWrites user wback rn list ba s' = stmWrites user wback rn list ba s := by
  refine List.mapIdx_eq_mapIdx_iff.mpr fun k inside => ?_
  have part : Knows K (regPart (if user then .usr else s.cpsr.mode) (listRegs list)[k]) := fun p member =>
    known p (List.mem_flatMap.mpr ⟨_, List.getElem_mem inside, member⟩)
  cases user with
  | false =>
    have value := h.readReg part
    simp only [stmValue, h.pc, Bool.false_eq_true, if_false, value]
  | true =>
    have value := h.readRegIn (m := .usr) part
    simp only [stmValue, h.pc, if_true, readUser, value]

theorem finishStm {user pre up wback : Bool} {rn : RegIdx} {list : BitVec 16}
    (known : Knows K (stmParts user rn list s)) :
    SameResult (Also K (Machine.regParts (if wback then [rn] else []) s))
      (finishStm user pre up wback rn list s) (finishStm user pre up wback rn list s') := by
  obtain ⟨base, registers⟩ := knows_append.mp known
  rw [finishStm_eq, finishStm_eq, h.blockAddress pre up (knows_regPart_of_mem base (List.mem_singleton_self rn)),
    h.stmWrites (by cases user <;> exact registers)]
  exact h.storeBack ..

/-! ## Status transfers and exceptions -/

theorem msrValueChecks (psr : PsrSel) (fields : MsrFields) (v : Word) :
    msrValueChecks psr fields v s' = msrValueChecks psr fields v s := by
  simp only [Machine.msrValueChecks, ctrlWritten, h.mode, show s'.cpsr.t = s.cpsr.t by rw [h.status]]

theorem msrFlags {fields : MsrFields} (v : Word) :
    FlagsAgree (Also K (if fields.flags then flagParts else []))
      (msrFlags fields.flags v s.cpsr.flags) (msrFlags fields.flags v s'.cpsr.flags) := by
  cases written : fields.flags with
  | false => exact h.flags.mono fun p _ => also_nil.mp
  | true => exact .refl ..

theorem msrEffect (psr : PsrSel) (fields : MsrFields) (v : Word) :
    AgreeOn (Also K (msrParts psr fields s)) (msrEffect psr fields v s) (msrEffect psr fields v s') := by
  cases psr with
  | cpsr =>
    have isFlags : (if fields.flags then flagParts else []) ⊆ flagParts := by split <;> simp
    refine AgreeOn.give (AgreeOn.stepPc (h.setCpsr _ isFlags ?_ ?_)) _
    · have control : ctrlWritten fields.ctrl s' = ctrlWritten fields.ctrl s := by rw [ctrlWritten, h.mode, ctrlWritten]
      simp only [msrCpsr, control]
      cases ctrlWritten fields.ctrl s with
      | false =>
        simp only [Bool.false_eq_true, if_false]
        rw [h.status]
      | true =>
        simp only [if_true]
        rw [h.status]
        rfl
    · rw [msrCpsr_flags, msrCpsr_flags]
      exact h.msrFlags v
  | spsr =>
    have parts : Machine.msrParts .spsr fields s' = Machine.msrParts .spsr fields s := by
      simp only [msrParts, h.mode]
    rw [Machine.msrEffect, Machine.msrEffect, parts, h.mode]
    refine AgreeOn.give (AgreeOn.stepPc (h.setSpsr (fun q also => also.imp_right fun given => ?parts) ?flags ?control)) _
    case parts =>
      rw [msrParts.eq_def] at given
      rcases List.mem_append.mp given with flags | control
      · split at flags <;> simp_all [spsrParts]
      · split at control <;> simp_all [spsrParts]
    case flags =>
      intro also
      cases written : fields.flags with
      | true => simp only [msrSpsr, Machine.msrFlags, written, if_true]
      | false =>
        have flags := h.savedFlags (by simpa [Also, msrParts, written] using also)
        simpa [msrSpsr, Machine.msrFlags, written] using flags
    case control =>
      intro also
      cases written : fields.ctrl with
      | true => simp only [msrSpsr, written, if_true]
      | false =>
        have control := h.savedControl (by simpa [Also, msrParts, written] using also)
        simpa [msrSpsr, written] using control

/-- What an entry makes known: R14 and the saved status of its mode, but the saved flags only if all four were. -/
theorem enterException (e : Exc) (ret : Word) :
    AgreeOn (fun p => Also K (regPart e.mode 14 ++ spsrParts e.mode) p ∧ (p = .spsrFlags e.mode → Knows K flagParts))
      (enterException e ret s) (enterException e ret s') := by
  have control : controlByte s'.cpsr = controlByte s.cpsr := by rw [h.status]; rfl
  have fiq : s'.cpsr.f = s.cpsr.f := by rw [h.status]
  have saved := ((h.writeRegIn e.mode 14 ret).setSpsr (m := e.mode) (p := savedPsr s.cpsr) (p' := savedPsr s'.cpsr)
    (K' := fun p => Also K (regPart e.mode 14 ++ spsrParts e.mode) p ∧ (p = .spsrFlags e.mode → Knows K flagParts))
    (fun q known => also_append.mp known.1) (fun known => h.flags.eq (known.2 rfl)) (fun _ => control)).give
    (spsrParts e.mode)
  have flags := h.flags.mono (K' := fun p => Also K (regPart e.mode 14 ++ spsrParts e.mode) p ∧
    (p = .spsrFlags e.mode → Knows K flagParts)) fun p isFlag known => known.1.resolve_right fun given => by
      rcases List.mem_append.mp given with link | saved
      · exact not_flag_of_regPart isFlag link
      · rcases List.mem_pair.mp saved with rfl | rfl <;> simp [flagParts] at isFlag
  exact { saved with
    flags := flags
    status := by rw [enterException_cpsr, enterException_cpsr, fiq]
    pc := rfl
    spsrFlags := fun m known => by cases m <;> exact saved.spsrFlags _ known
    spsrControl := fun m known => by cases m <;> exact saved.spsrControl _ known }

theorem msrCore (psr : PsrSel) (fields : MsrFields) (v : Word) :
    SameResult (Also K (msrParts psr fields s)) (msrCore psr fields v s) (msrCore psr fields v s') := by
  rw [Machine.msrCore, Machine.msrCore, h.msrValueChecks]
  exact .checked fun _ => .next (h.msrEffect psr fields v)

theorem takeSynchronous {e : Exc} (saves : savesInto i = some e.mode)
    (given : gives i s = regPart e.mode 14 ++ spsrParts e.mode) :
    SameResult (KnownAfter i K s) (takeSynchronous e s) (takeSynchronous e s') := by
  rw [Machine.takeSynchronous, Machine.takeSynchronous, h.pc]
  refine .next ((h.enterException e _).mono fun p known => ?_)
  rw [KnownAfter, given] at known
  exact ⟨known.1, known.2 _ saves⟩

/-- The effect of an instruction depends on the known parts that it names, and it gives their values to the others. -/
theorem core (returns : returnsWithPc i = true) (known : Knows K (dependsOn i s)) :
    SameResult (KnownAfter i K s) (core i s) (core i s') := by
  cases i
  case and => exact (h.logicalCore _ (fun _ _ _ => rfl) known).knownAfter
  case eor => exact (h.logicalCore _ (fun _ _ _ => rfl) known).knownAfter
  case orr => exact (h.logicalCore _ (fun _ _ _ => rfl) known).knownAfter
  case bic => exact (h.logicalCore (fun a b => a &&& ~~~b) (fun _ _ _ => rfl) known).knownAfter
  case mov => exact (h.moveCore id (fun _ _ => rfl) known).knownAfter
  case mvn => exact (h.moveCore (~~~ ·) (fun _ _ => rfl) known).knownAfter
  case tst => exact (h.logicalTest _ (fun _ _ _ => rfl) known).knownAfter
  case teq => exact (h.logicalTest _ (fun _ _ _ => rfl) known).knownAfter
  case sub => exact (h.arithmeticCore (fun a b b' _ _ same => by rw [subFn, same, subFn]) known).knownAfter
  case rsb => exact (h.arithmeticCore (fun a b b' _ _ same => by rw [rsbFn, same, rsbFn]) known).knownAfter
  case add => exact (h.arithmeticCore (fun a b b' _ _ same => by rw [addFn, same, addFn]) known).knownAfter
  case adc => exact (h.carryCore (fun a b b' _ _ same carry => by rw [adcFn, same, carry, adcFn]) known).knownAfter
  case sbc => exact (h.carryCore (fun a b b' _ _ same carry => by rw [sbcFn, same, carry, sbcFn]) known).knownAfter
  case rsc => exact (h.carryCore (fun a b b' _ _ same carry => by rw [rscFn, same, carry, rscFn]) known).knownAfter
  case cmp => exact (h.arithmeticTest (fun a b b' _ _ same => by rw [cmpFn, same, cmpFn]) known).knownAfter
  case cmn => exact (h.arithmeticTest (fun a b b' _ _ same => by rw [cmnFn, same, cmnFn]) known).knownAfter
  case mul c sf rd rn rs rm =>
    rw [Machine.core, Machine.core, h.readReg (knows_regPart_of_mem known (r := rm) (by simp)),
      h.readReg (knows_regPart_of_mem known (r := rs) (by simp))]
    exact (h.finishMultiply sf rd _).knownAfter
  case mla c sf rd rn rs rm =>
    rw [Machine.core, Machine.core, h.readReg (knows_regPart_of_mem known (r := rm) (by simp)),
      h.readReg (knows_regPart_of_mem known (r := rs) (by simp)),
      h.readReg (knows_regPart_of_mem known (r := rn) (by simp))]
    exact (h.finishMultiply sf rd _).knownAfter
  case umull | smull => exact (h.longCore (a := false) known).knownAfter
  case umlal | smlal => exact (h.longCore (a := true) known).knownAfter
  case swp | swpb => exact (h.swapCore known).knownAfter
  case b c off =>
    rw [Machine.core, Machine.core, branchTarget, branchTarget, h.pc]
    exact ((h.writePc _).mono fun p => also_nil.mp).knownAfter
  case bl c off =>
    rw [Machine.core, Machine.core, branchTarget, branchTarget, h.pc]
    exact ((h.writeReg 14 _).writePc _).knownAfter
  case bx c rm =>
    rw [Machine.core, Machine.core, h.readReg (knows_regPart_of_mem known (List.mem_singleton_self rm))]
    exact ((h.branchExchange _).mono fun p => also_nil.mp).knownAfter
  case ldr | ldrb => exact (h.loadCore known).knownAfter
  case ldrt | ldrbt => exact (h.loadCore (pre := false) (wback := true) known).knownAfter
  case str | strb => exact (h.storeCore known).knownAfter
  case strt | strbt => exact (h.storeCore (pre := false) (wback := true) known).knownAfter
  case ldrh | ldrsb | ldrsh => exact (h.halfLoadCore known).knownAfter
  case strh => exact (h.halfStoreCore known).knownAfter
  case ldmia | ldmib | ldmda | ldmdb => exact (h.finishLdm known).knownAfter
  case stmia | stmib | stmda | stmdb =>
    exact (h.finishStm (user := false) (by rwa [stmParts_current])).knownAfter
  case stmUser c pre up wback rn list =>
    exact ((h.finishStm (user := true) known).mono fun p also => .inl (also_nil.mp also)).knownAfter
  case ldmRet =>
    exact (h.ldmRetCore (pc_mem_listRegs.mpr (by simpa [returnsWithPc] using returns)) known).knownAfter
  case ldmUser c pre up wback rn list =>
    rw [Machine.core, Machine.core]
    by_cases empty : list = 0#16
    · subst empty
      refine ((h.ldmRetCore (pc_mem_listRegs.mpr (.inl rfl)) known).mono fun p also => ?_).knownAfter
      cases wback <;> simpa [Also, gives, Machine.regParts, listRegs, regPart_pc] using also
    · rw [if_neg empty, if_neg empty]
      obtain ⟨base, -⟩ := knows_append.mp known
      refine ((h.finishLdmUser base).mono fun p also => ?_).knownAfter
      simpa [gives, empty] using also
  case mrs c psr rd =>
    have parts : psrParts psr s' = psrParts psr s := by
      cases psr with
      | spsr => exact h.savedStatus known
      | cpsr =>
        have status : s'.cpsr = s.cpsr := by rw [h.status, h.flags.eq known]
        simp only [psrParts, status]
    rw [Machine.core, Machine.core, mrsValue, mrsValue, parts, h.drawn]
    exact (h.afterDraw.writeResult rd _).knownAfter
  case msrReg c psr fields ignored rm =>
    rw [Machine.core, Machine.core, h.readReg (knows_regPart_of_mem known (List.mem_singleton_self rm))]
    refine ((h.msrCore psr fields _).mono fun p also => ?_).knownAfter
    cases psr <;> exact also
  case msrImm c psr fields ignored rot imm8 =>
    refine ((h.msrCore psr fields _).mono fun p also => ?_).knownAfter
    cases psr <;> exact also
  case swi => exact h.takeSynchronous (e := .swi) rfl rfl
  case ldc | stc | cdp | mcr | mrc | fallback | undefHalfword | undefSignedStore | undefGap | undefTest =>
    exact h.takeSynchronous (e := .undefined) rfl rfl

end AgreeOn

end Sys2Proof.Machine
end

section
/-! PROOFS. A step is the same in two states that agree on the parts it can read (10_state R121): on those that hold a value,
and in User mode without ARM_COMPLETION on those that User mode sees (60_exceptions R1081). -/

namespace Sys2Proof.Machine

variable {K V : UnwrittenPart → Prop} {s s' : State} {i : Instr}

/-! ## Checks -/

theorem checked_pass_or_fault (cs : List (Bool × Fault)) :
    (∀ c ∈ cs, c.1 = false) ∨ ∃ f, ∀ k, checked cs k = .fault f := by
  induction cs with
  | nil => exact .inl (by simp)
  | cons c rest ih =>
    obtain ⟨holds, f⟩ := c
    cases holds with
    | true => exact .inr ⟨f, fun _ => rfl⟩
    | false =>
      rcases ih with pass | ⟨g, fails⟩
      · exact .inl (by simpa using pass)
      · exact .inr ⟨g, fails⟩

/-- The marks of the parts in `V` are the same in both states. -/
def MarksAgree (V : UnwrittenPart → Prop) (s s' : State) : Prop := ∀ p, V p → (p ∈ s'.unwritten ↔ p ∈ s.unwritten)

theorem MarksAgree.unwrittenChecks (h : MarksAgree V s s') {ps : List UnwrittenPart} (seen : Knows V ps) :
    unwrittenChecks ps s' = unwrittenChecks ps s := by
  refine List.map_congr_left fun p member => ?_
  rw [List.contains_eq_mem, List.contains_eq_mem, decide_eq_decide.mpr (h p (seen p member))]

theorem FlagsAgree.condPass {f f' : Flags} (h : FlagsAgree K f f') {c : Cond} (known : Knows K (condParts c)) :
    condPass c f' = condPass c f := by
  obtain ⟨n, z, carry, v⟩ := h
  cases c <;> simp_all [Knows, condParts, Machine.condPass]

theorem condParts_subset (c : Cond) : condParts c ⊆ flagParts := by
  cases c <;> simp [condParts, flagParts]

namespace AgreeOn
variable (h : AgreeOn K s s')
include h

/-- The word, the mode and the setting decide the checks before the reads. -/
theorem wordChecks (i : Instr) : wordChecks i s' = wordChecks i s := by
  have own : ownChecks i s' = ownChecks i s := by simp only [ownChecks, unimplementedCheck, h.completion]
  rw [Machine.wordChecks, own, Machine.wordChecks]
  congr 1
  cases i <;> simp only [formChecks, resultChecks, ldmRetChecks, userBankChecks, spsrCheck, h.mode, h.completion]

theorem operand2Reads (op2 : Operand2) : operand2Reads op2 s' = operand2Reads op2 s := by
  rcases op2 with _ | ⟨rm, ty, amount⟩ | _
  · rfl
  · cases ty <;> simp only [Machine.operand2Reads, h.regParts]
  · exact h.regParts _

theorem offsetReads (off : Offset) : offsetReads off s' = offsetReads off s := by
  cases off with
  | imm => rfl
  | reg rm ty amount => exact h.operand2Reads (.shiftImm rm ty amount)

/-- The word and the mode decide which parts are read. -/
theorem dependsOn (i : Instr) : dependsOn i s' = dependsOn i s := by
  cases i
  case mrs c psr rd => cases psr <;> simp only [Machine.dependsOn, h.mode]
  all_goals simp only [Machine.dependsOn, returnParts, h.regParts, h.operand2Reads, h.offsetReads, h.mode]

theorem logicalWrite {op2 : Operand2} (known : Knows K (Machine.operand2Reads op2 s)) :
    logicalWrite op2 s' = logicalWrite op2 s := by
  rw [← logical_gives_eq_logicalWrite, h.carryKept known, logical_gives_eq_logicalWrite]

/-- What a logical opcode gives a value depends on the amount of a register shift, too (42_data R505). -/
theorem gives (known : Knows K (Machine.dependsOn i s)) : gives i s' = gives i s := by
  cases i
  case and | eor | orr | bic =>
    obtain ⟨known, -⟩ := knows_append.mp known
    simp only [Machine.gives, h.regParts, h.logicalWrite (knows_append.mp known).2]
  case mov | mvn => simp only [Machine.gives, h.regParts, h.logicalWrite (knows_append.mp known).1]
  case tst | teq => simp only [Machine.gives, h.logicalWrite (knows_append.mp known).2]
  case msrReg c psr fields ignored rm => cases psr <;> simp only [Machine.gives, h.mode]
  case msrImm c psr fields ignored rot imm8 => cases psr <;> simp only [Machine.gives, h.mode]
  all_goals simp only [Machine.gives, h.regParts]

theorem clearHazard : AgreeOn K (clearHazard s) (clearHazard s') := h.setHazard false

end AgreeOn

/-! ## Instructions and steps -/

/-- Two outcomes that are the same, with next states of which `P` holds. -/
def SameOutcome (P : State → State → Prop) (r r' : Result) : Prop :=
  (∀ t, r = .next t → ∃ t', r' = .next t' ∧ P t t') ∧ (∀ f, r = .fault f → r' = .fault f) ∧
    ∀ x, r = .refused x → r' = .refused x

section
variable {P : State → State → Prop}

theorem sameOutcome_next {t t' : State} (h : P t t') : SameOutcome P (.next t) (.next t') :=
  ⟨fun _ next => ⟨t', rfl, by cases next; exact h⟩, fun _ fault => (by cases fault), fun _ refused => (by cases refused)⟩

theorem sameOutcome_fault (f : Fault) : SameOutcome P (.fault f) (.fault f) :=
  ⟨fun _ next => (by cases next), fun _ fault => fault, fun _ refused => (by cases refused)⟩

theorem sameOutcome_refused (x : Refusal) : SameOutcome P (.refused x) (.refused x) :=
  ⟨fun _ next => (by cases next), fun _ fault => (by cases fault), fun _ refused => refused⟩

/-- The two states run the same instruction, or none. -/
theorem sameOutcome_step (pc : s'.pc = s.pc) (mem : s'.mem = s.mem) (thumb : s'.cpsr.t = s.cpsr.t)
    (fault : s'.fault = s.fault) (runs : ∀ i : Instr, i.wellFormed = true → SameOutcome P (exec i s) (exec i s')) :
    SameOutcome P (step s) (step s') := by
  rw [step, step, fault, thumb, fetchWord, fetchWord, mem, pc]
  split
  · exact sameOutcome_refused _
  · split
    · exact sameOutcome_refused _
    · rw [executeWord, executeWord, decodeWord]
      split
      · next i decoded =>
        split at decoded <;> cases decoded
        exact runs _ (wellFormed_decodeFamily ..)
      · exact sameOutcome_fault _

/-- What an instruction can see and agrees on: the flags of its condition, and what it depends on where its word passes. -/
structure Blind (V K : UnwrittenPart → Prop) (i : Instr) (s s' : State) : Prop where
  agree : AgreeOn K s s'
  marks : MarksAgree V s s'
  known : ∀ p, V p → p ∉ s.unwritten → K p
  flags : Knows V flagParts
  reads : (∀ c ∈ wordChecks i s, c.1 = false) → Knows V (dependsOn i s)

/-- An instruction has the same outcome in both states where its effect has. -/
theorem Blind.exec (h : Blind V K i s s') (returns : returnsWithPc i = true)
    (steps : P (stepPc (clearHazard s)) (stepPc (clearHazard s')))
    (runs : (∀ c ∈ wordChecks i s, c.1 = false) → Knows K (dependsOn i s) →
      SameOutcome P (core i (clearHazard s)) (core i (clearHazard s'))) :
    SameOutcome P (exec i s) (exec i s') := by
  obtain ⟨agree, marks, known, flags, reads⟩ := h
  have condSeen : Knows V (condParts i.cond) := fun p member => flags p (condParts_subset _ member)
  rw [exec_eq_handler, exec_eq_handler, whenPassed, whenPassed, marks.unwrittenChecks condSeen]
  rcases checked_pass_or_fault (unwrittenChecks (condParts i.cond) s) with pass | ⟨f, fails⟩
  case inr => rw [fails, fails]; exact sameOutcome_fault f
  have decided := unwrittenChecks_pass.mp pass
  rw [checked_pass _ pass, checked_pass _ pass, whenDecided, whenDecided,
    agree.flags.condPass fun p member => known p (condSeen p member) (decided p member), agree.hazard]
  split
  case isFalse => exact sameOutcome_next steps
  split
  · exact sameOutcome_fault _
  rw [handler_eq_core returns, handler_eq_core returns, agree.clearHazard.wordChecks, wordChecks_clearHazard,
    dependsOn_clearHazard, dependsOn_clearHazard, agree.dependsOn, unwrittenChecks_clearHazard, unwrittenChecks_clearHazard]
  rcases checked_pass_or_fault (wordChecks i s) with word | ⟨f, fails⟩
  case inr => rw [fails, fails]; exact sameOutcome_fault f
  rw [checked_pass _ word, checked_pass _ word, marks.unwrittenChecks (reads word)]
  rcases checked_pass_or_fault (unwrittenChecks (dependsOn i s) s) with written | ⟨f, fails⟩
  case inr => rw [fails, fails]; exact sameOutcome_fault f
  rw [checked_pass _ written, checked_pass _ written]
  exact runs word fun p member => known p (reads word p member) (unwrittenChecks_pass.mp written p member)

theorem SameResult.sameOutcome {r r' : Result} (h : SameResult K r r')
    (ends : ∀ t t', r = .next t → r' = .next t' → AgreeOn K t t' → P t t') : SameOutcome P r r' := by
  cases h with
  | next h => exact sameOutcome_next (ends _ _ rfl rfl h)
  | fault f => exact sameOutcome_fault f
  | refused x => exact sameOutcome_refused x

end

/-! ## Agreement on what holds a value -/

theorem SameWritten.agreeOn (h : SameWritten s s') : AgreeOn (· ∉ s.unwritten) s s' := by
  have status : s'.cpsr = { s.cpsr with flags := s'.cpsr.flags } := by
    have restored : restoredPsr ⟨s'.cpsr.flags, controlByte s.cpsr⟩ = some { s.cpsr with flags := s'.cpsr.flags } :=
      restoredPsr_savedPsr { s.cpsr with flags := s'.cpsr.flags }
    rw [← h.control] at restored
    exact Option.some_inj.mp ((restoredPsr_savedPsr s'.cpsr).symm.trans restored)
  exact ⟨h.regs, ⟨h.n, h.z, h.c, h.v⟩, status, h.spsrFlags, h.spsrControl, h.pc, h.mem, h.hazard, h.fault, h.completion,
    h.draws⟩

theorem AgreeOn.sameWritten (h : AgreeOn (· ∉ s.unwritten) s s') (marks : s'.unwritten = s.unwritten) : SameWritten s s' where
  unwritten := marks
  regs := h.regs
  n := h.flags.n
  z := h.flags.z
  c := h.flags.c
  v := h.flags.v
  control := by rw [h.status]; rfl
  spsrFlags := h.spsrFlags
  spsrControl := h.spsrControl
  pc := h.pc
  mem := h.mem
  hazard := h.hazard
  fault := h.fault
  completion := h.completion
  draws := h.draws

/-- A part that an instruction leaves unmarked is known after it. -/
theorem knownAfter_of_not_marked {p : UnwrittenPart} (h : p ∉ marksAfter i s) :
    KnownAfter i (· ∉ s.unwritten) s p := by
  rw [marksAfter, List.mem_append, not_or, mem_unmark, not_and_or, not_not] at h
  refine ⟨h.2, ?_⟩
  rintro m saves rfl q isFlag marked
  refine h.1 ?_
  have some : flagParts.any s.unwritten.contains = true :=
    List.any_eq_true.mpr ⟨q, isFlag, List.contains_iff_mem.mpr marked⟩
  simp [saves, savedMarks, some]

theorem sameWritten_exec (h : SameWritten s s') (wf : i.wellFormed = true) :
    SameOutcome SameWritten (exec i s) (exec i s') := by
  have agree := h.agreeOn
  have returns := returnsWithPc_of_wellFormed wf
  have blind : Blind (fun _ => True) (· ∉ s.unwritten) i s s' :=
    ⟨agree, fun p _ => by rw [h.unwritten], fun p _ => id, fun _ _ => trivial, fun _ _ _ => trivial⟩
  refine blind.exec returns (agree.clearHazard.stepPc.sameWritten h.unwritten) fun pass known => ?_
  have pass : ∀ c ∈ wordChecks i (clearHazard s), c.1 = false := by rwa [wordChecks_clearHazard]
  have known : Knows (· ∉ s.unwritten) (dependsOn i (clearHazard s)) := by rwa [dependsOn_clearHazard]
  refine (agree.clearHazard.core returns known).sameOutcome fun t t' next next' after => ?_
  have marks := core_marks returns pass next
  have marks' := core_marks returns (by rwa [agree.clearHazard.wordChecks]) next'
  have same : t'.unwritten = t.unwritten := by
    have saved (m : Mode) : savedMarks m (clearHazard s') = savedMarks m (clearHazard s) := by
      rw [savedMarks, savedMarks, clearHazard_unwritten, clearHazard_unwritten, h.unwritten]
    simp only [marks, marks', marksAfter, agree.clearHazard.gives known, saved, clearHazard_unwritten, h.unwritten]
  exact (after.mono fun p unmarked => knownAfter_of_not_marked (marks ▸ unmarked)).sameWritten same

/-! ## Agreement on what User mode sees -/

theorem userSees_low (k : Fin 8) : UnwrittenPart.userSees (.reg (.low k)) := by
  have shown : ∀ k : Fin 8, view .usr (k.castLE (by decide)) = some (.low k) := by decide
  exact .inr ⟨_, _, shown k, rfl⟩

theorem userSees_usr (k : Fin 7) : UnwrittenPart.userSees (.reg (.usr k)) := by
  have shown : ∀ k : Fin 7, view .usr ⟨k.val + 8, by omega⟩ = some (.usr k) := by decide
  exact .inr ⟨_, _, shown k, rfl⟩

/-- A physical register that User mode sees is one of its two arrays. -/
theorem bank_of_userSees {q : PhysReg} (sees : UnwrittenPart.userSees (.reg q)) :
    (∃ k, q = .low k) ∨ ∃ k, q = .usr k := by
  rcases sees with isFlag | ⟨r, q', shown, same⟩
  · simp [flagParts] at isFlag
  · cases same
    rw [view] at shown
    split at shown
    · exact .inl ⟨_, (Option.some_inj.mp shown).symm⟩
    · split at shown
      · cases shown
      · exact .inr ⟨_, (Option.some_inj.mp shown).symm⟩

theorem not_userSees_spsr (m : Mode) :
    ¬ UnwrittenPart.userSees (.spsrFlags m) ∧ ¬ UnwrittenPart.userSees (.spsrControl m) := by
  constructor <;>
  · rintro (isFlag | ⟨r, q, -, same⟩)
    · simp [flagParts] at isFlag
    · cases same

/-- In the normative setting no opcode returns from an exception. -/
theorem returnParts_eq_nil {sf : Bool} {rn rd : RegIdx} {op2 : Operand2} (normative : s.armCompletion = false)
    (pass : ∀ c ∈ resultChecks sf rn rd op2 s, c.1 = false) : returnParts sf rd s = [] := by
  refine if_neg fun ⟨sets, pc⟩ => ?_
  simp [resultChecks, sets, pc, normative] at pass

/-- In User mode without ARM_COMPLETION an instruction reads only parts that User mode sees. -/
theorem userSees_dependsOn (user : s.cpsr.mode = .usr) (normative : s.armCompletion = false)
    (pass : ∀ c ∈ wordChecks i s, c.1 = false) : UserSees (dependsOn i s) := by
  have regs := userSees_regParts user
  have carry : UserSees [.flagC] := userSees_flags (by simp [flagParts])
  have operand (op2 : Operand2) : UserSees (operand2Reads op2 s) := by
    rcases op2 with _ | ⟨rm, ty, amount⟩ | _
    · exact userSees_nil
    · cases ty
      case ror => exact userSees_append (regs _) (userSees_ite _ carry userSees_nil)
      all_goals exact regs _
    · exact regs _
  have offset (off : Offset) : UserSees (offsetReads off s) := by
    cases off with
    | imm => exact userSees_nil
    | reg rm ty amount => exact operand (.shiftImm rm ty amount)
  have formPass := fun c hc => pass c (List.mem_append_right _ hc)
  cases i
  case and | eor | sub | rsb | add | orr | bic =>
    rw [dependsOn, returnParts_eq_nil normative formPass]
    exact userSees_append (userSees_append (regs _) (operand _)) userSees_nil
  case adc | sbc | rsc =>
    rw [dependsOn, returnParts_eq_nil normative formPass]
    exact userSees_append (userSees_append (userSees_append (regs _) (operand _)) carry) userSees_nil
  case mov | mvn =>
    rw [dependsOn, returnParts_eq_nil normative formPass]
    exact userSees_append (operand _) userSees_nil
  case tst | teq | cmp | cmn => exact userSees_append (regs _) (operand _)
  case ldr | ldrb | ldrt | ldrbt | str | strb | strt | strbt => exact userSees_append (regs _) (offset _)
  case mrs c psr rd =>
    cases psr with
    | cpsr => exact userSees_flags (List.Subset.refl _)
    | spsr => simp [formChecks, spsrCheck, user, Mode.hasSpsr] at formPass
  case ldmRet => simp [formChecks, ldmRetChecks, normative] at formPass
  case ldmUser c pre up wback rn list =>
    by_cases empty : list = 0#16
    · simp [formChecks, empty, ldmRetChecks, normative] at formPass
    · simpa [dependsOn, empty] using regs [rn]
  case stmUser => exact userSees_append (regs _) (userSees_userParts _)
  case mul | mla | umull | umlal | smull | smlal | swp | swpb | bx | ldrh | ldrsb | ldrsh | strh | ldmia | ldmib | ldmda
    | ldmdb | stmia | stmib | stmda | stmdb | msrReg => exact regs _
  case msrImm | b | bl | swi | ldc | stc | cdp | mcr | mrc | undefHalfword | undefSignedStore | undefGap | undefTest
    | fallback => exact userSees_nil

/-- The two states agree on all that User mode sees, values and marks. -/
structure UserAgree (s s' : State) : Prop where
  agree : AgreeOn UnwrittenPart.userSees s s'
  marks : MarksAgree UnwrittenPart.userSees s s'

theorem userAgree_exec (h : UserAgree s s') (normative : s.armCompletion = false) (user : s.cpsr.mode = .usr)
    (wf : i.wellFormed = true) : SameOutcome UserAgree (exec i s) (exec i s') := by
  obtain ⟨agree, marks⟩ := h
  have returns := returnsWithPc_of_wellFormed wf
  have blind : Blind UnwrittenPart.userSees UnwrittenPart.userSees i s s' :=
    ⟨agree, marks, fun p sees _ => sees, fun p isFlag => .inl isFlag, fun pass => userSees_dependsOn user normative pass⟩
  refine blind.exec returns ⟨agree.clearHazard.stepPc, marks⟩ fun pass known => ?_
  have pass : ∀ c ∈ wordChecks i (clearHazard s), c.1 = false := by rwa [wordChecks_clearHazard]
  have known : Knows UnwrittenPart.userSees (dependsOn i (clearHazard s)) := by rwa [dependsOn_clearHazard]
  have noEntry := savesInto_eq_none (s := clearHazard s) normative pass
  refine (agree.clearHazard.core returns known).sameOutcome fun t t' next next' after => ⟨?_, fun p sees => ?_⟩
  · exact after.mono fun p sees => ⟨.inl sees, fun m saves => by simp [noEntry] at saves⟩
  · rw [core_marks returns pass next, core_marks returns (by rwa [agree.clearHazard.wordChecks]) next', marksAfter,
      marksAfter, noEntry, agree.clearHazard.gives known]
    simp [mem_unmark, marks p sees]

end Sys2Proof.Machine

open Sys2Proof Sys2Proof.Machine

/-- Settles O60: a step reads no part without a value, and what it gives a value gets the same in both states. -/
theorem unwrittenValuesUnseen : Obligations.UnwrittenValuesUnseen := by
  unfold Obligations.UnwrittenValuesUnseen
  intro s s' h
  exact sameOutcome_step h.pc h.mem (by rw [h.agreeOn.status]) h.fault fun i wf => sameWritten_exec h wf

/-- Settles O57: the same for what User mode sees, which takes in all that an instruction of the normative setting reads or
gives a value there. -/
theorem normativeUserModeBlind : Obligations.NormativeUserModeBlind := by
  unfold Obligations.NormativeUserModeBlind
  intro agree s s' normative user h
  have ofAgree {t t' : State} (h : agree t t') : UserAgree t t' := by
    obtain ⟨low, usr, pc, cpsr, mem, hazard, fault, completion, draws, marks⟩ := h
    refine ⟨⟨fun q sees => ?_, cpsr ▸ .refl .., cpsr.trans (by rw [cpsr]),
      fun m sees => absurd sees (not_userSees_spsr m).1, fun m sees => absurd sees (not_userSees_spsr m).2, pc, mem, hazard,
      fault, completion, draws⟩, marks⟩
    rcases bank_of_userSees sees with ⟨k, rfl⟩ | ⟨k, rfl⟩
    · exact congrArg (Vector.get · k) low
    · exact congrArg (Vector.get · k) usr
  have toAgree {t t' : State} (h : UserAgree t t') : agree t t' := by
    obtain ⟨same, marks⟩ := h
    have flags := same.flags.eq fun p isFlag => .inl isFlag
    exact ⟨Vector.ext fun k bound => same.regs (.low ⟨k, bound⟩) (userSees_low _),
      Vector.ext fun k bound => same.regs (.usr ⟨k, bound⟩) (userSees_usr _), same.pc, same.status.trans (by rw [flags]),
      same.mem, same.hazard, same.fault, same.completion, same.draws, marks⟩
  have start := ofAgree h
  have same := start.agree
  obtain ⟨nexts, faults, refusals⟩ := sameOutcome_step same.pc same.mem (by rw [same.status]) same.fault
    fun i wf => userAgree_exec start normative user wf
  refine ⟨fun t next => ?_, faults, refusals⟩
  obtain ⟨t', next', h'⟩ := nexts t next
  exact ⟨t', next', toAgree h'⟩

end

section
/-! PROOFS. What the data-processing opcodes write, and where they stop (42_data R501 to R541, 41_shifter R460): the
results of the sixteen opcodes, the return forms, and R15 in a register-specified shift. -/

namespace Sys2Proof.Machine

/-! ## Resuming from a saved status (60_exceptions R1070) -/

theorem restoredPsr_eq_none {p : Spsr} : restoredPsr p = none ↔ modeOf (p.control.extractLsb' 0 5) = none := by
  rw [restoredPsr]
  split
  next noMode => simp [noMode]
  next isMode => simp [isMode]

section
variable {target : Word} {p : Spsr} {s u : State}

theorem resumeAt_noMode (noMode : modeOf (p.control.extractLsb' 0 5) = none) :
    resumeAt target p u = .fault (.unpredictable 1070) := by
  rw [resumeAt, restoredPsr_eq_none.2 noMode]

theorem resumeAt_misaligned (isMode : modeOf (p.control.extractLsb' 0 5) ≠ none) (arm : p.control.getLsbD 5 = false)
    (odd : target.extractLsb' 0 2 ≠ 0#2) : resumeAt target p u = .fault (.unpredictable 112) := by
  obtain ⟨c, restored⟩ := Option.ne_none_iff_exists'.1 (mt restoredPsr_eq_none.1 isMode)
  have armRestored : c.t = false := (restoredPsr_thumb restored).trans arm
  simp only [resumeAt, restored, armRestored, Bool.false_eq_true, if_false]
  exact writePc_misaligned _ (bne_iff_ne.2 odd)

/-- A return from a state that has kept all but `regs` keeps the rest too, and reads no register. -/
theorem resumeAt_returns {regs : List PhysReg} (isMode : modeOf (p.control.extractLsb' 0 5) ≠ none)
    (word : p.control.getLsbD 5 = true ∨ target.extractLsb' 0 2 = 0#2) (kept : Kept regs [] s u)
    (clear : u.ldmUserHazard = false) :
    ∃ t, resumeAt target p u = .next t ∧ Returns target p regs s t ∧ t.regs = u.regs := by
  obtain ⟨c, restored⟩ := Option.ne_none_iff_exists'.1 (mt restoredPsr_eq_none.1 isMode)
  have thumb := restoredPsr_thumb restored
  have flags : c.flags = p.flags := by
    obtain ⟨m, named⟩ := Option.ne_none_iff_exists'.1 isMode
    simp only [restoredPsr, named, Option.some.injEq] at restored
    rw [← restored]
  let t := give flagParts { u with cpsr := c, pc := if p.control.getLsbD 5 then target &&& ~~~1#32 else target }
  have keptAfter : Kept regs [] s t :=
    ⟨kept.regs, kept.mem, fun m => (by cases m <;> rfl : spsrOf m t = spsrOf m u).trans (kept.spsr m), kept.fault,
      kept.completion⟩
  refine ⟨t, resumeAt_eq_next.2 ⟨c, restored, ?ends⟩, ⟨flags, controlByte_restoredPsr restored, rfl, keptAfter, clear⟩, rfl⟩
  case ends =>
    cases saved : p.control.getLsbD 5 with
    | true => exact .inl ⟨thumb.trans saved, by simp only [t, saved, if_true]⟩
    | false =>
      have aligned : target.extractLsb' 0 2 = 0#2 := word.resolve_left (by rw [saved]; exact Bool.false_ne_true)
      exact .inr ⟨thumb.trans saved, misaligned_eq_false.2 aligned, by simp only [t, saved, Bool.false_eq_true, if_false]⟩

/-- The return of a mode whose saved status holds values resumes from it. -/
theorem exceptionReturn_of_spsr (saved : spsrOf u.cpsr.mode u = some p)
    (written : ∀ q ∈ spsrParts u.cpsr.mode, q ∉ u.unwritten) :
    exceptionReturn target u = resumeAt target p u := by
  simp only [exceptionReturn, saved]
  exact checked_pass _ (unwrittenChecks_pass.2 written)

end

/-- Clearing the hazard bit keeps everything that `Kept` names. -/
theorem kept_clearHazard (regs : List PhysReg) (bytes : List Word) (s : State) : Kept regs bytes s (clearHazard s) :=
  ⟨fun _ _ => rfl, fun _ _ => rfl, fun m => spsrOf_clearHazard m s, rfl, rfl⟩

/-! ## R15 in a register-specified shift (41_shifter R460) -/

section
variable {i : Instr} {s : State} {d : DataSpec} {rn : RegIdx} {op2 : Operand2}

/-- The check of R460 looks at the fields that `shiftsByPc` names. -/
theorem pcInRegShift_eq_shiftsByPc {others : List RegIdx} (operand2 : operand2Of i = some op2)
    (fields : ∀ r, r ∈ shiftFields i ↔ r ∈ others ∨ r ∈ operand2Regs op2) :
    pcInRegShift others op2 = shiftsByPc i := by
  rw [shiftsByPc, operand2]
  cases op2 with
  | imm | shiftImm => rfl
  | shiftReg rm ty rs =>
    have sameFields : 15 ∈ rm :: rs :: others ↔ 15 ∈ shiftFields i := by
      rw [fields, or_comm]
      exact List.mem_append (s := [rm, rs])
    exact Bool.eq_iff_iff.2 (by rw [pcInRegShift, List.contains_iff_mem, List.contains_iff_mem, sameFields])

theorem ResultRun.pcInRegShift {sources given : List UnwrittenPart} (run : ResultRun i s d rn op2 sources given) :
    pcInRegShift [d.rd, rn] op2 = shiftsByPc i := by
  refine pcInRegShift_eq_shiftsByPc run.operand2 fun r => ?_
  rw [run.fields]
  simp [or_left_comm, or_assoc]

/-- A ready result opcode of a class that may run ends with the checks of R510 first. -/
theorem exec_of_resultChecks (h : dataSpec i s = some d) (ready : Ready i s) (implemented : Implemented i s) :
    ∃ rn op2 k, pcInRegShift [d.rd, rn] op2 = shiftsByPc i ∧ exec i s = checked (resultChecks d.sf rn d.rd op2 s) k := by
  obtain ⟨rn, op2, sources, given, run⟩ := resultRun_of_dataSpec (s := clearHazard s) h
  have runs := (exec_ready ready).trans run.runs
  rw [checked_append, checked_append, checked_pass _ (ownChecks_pass (s := clearHazard s) implemented)] at runs
  exact ⟨rn, op2, _, run.pcInRegShift, runs⟩

theorem returnsFromException_of_dataSpec (h : dataSpec i s = some d) :
    returnsFromException i s = (d.rd == 15 && d.sf) := by
  unfold returnsFromException
  split
  next => cases h
  next => cases h
  next =>
    rw [h]
    rfl

/-- R15 in a register-specified shift of a result opcode that is no return form. -/
theorem result_faults_shift (h : dataSpec i s = some d) (ready : Ready i s) (implemented : Implemented i s)
    (shifted : shiftsByPc i = true) (noReturn : returnsFromException i s = false) :
    exec i s = .fault (.unpredictable 460) := by
  obtain ⟨rn, op2, k, sameShift, runs⟩ := exec_of_resultChecks h ready implemented
  rw [returnsFromException_of_dataSpec h] at noReturn
  simp [runs, resultChecks, checked_cons, sameShift, shifted, noReturn]

/-! ## The test opcodes -/

/-- A test opcode checks R460 alone, and writes the flags of its row. -/
theorem core_of_testSpec {f : Flags} (h : testSpec i s = some f) :
    ∃ given, core i s = .next (stepPc (setFlags given f s)) := by
  cases i
  case tst | teq =>
    cases h
    exact ⟨_, rfl⟩
  case cmp rn rd op2 =>
    cases h
    have row : (cmpFn (readReg s rn) (shiftOperand op2 s) s.cpsr.flags).2 =
        (subSpec 0 true (readReg s rn) (shiftOperand op2 s).value 0).flags :=
      congrArg Prod.snd (subWithFlags_eq_subSpec _ _ 0 true)
    exact ⟨AluKind.arithmetic.gives (carryKept op2 s), congrArg (fun f => Host.Outcome.next (stepPc (setFlags _ f s))) row⟩
  case cmn rn rd op2 =>
    cases h
    have row : (cmnFn (readReg s rn) (shiftOperand op2 s) s.cpsr.flags).2 =
        (addSpec 0 true (readReg s rn) (shiftOperand op2 s).value 0).flags :=
      congrArg Prod.snd (addWithFlags_eq_addSpec _ _ false 0 true)
    exact ⟨AluKind.arithmetic.gives (carryKept op2 s), congrArg (fun f => Host.Outcome.next (stepPc (setFlags _ f s))) row⟩
  all_goals cases h

theorem formChecks_of_testSpec {f : Flags} (h : testSpec i s = some f) :
    formChecks i s = [(shiftsByPc i, .unpredictable 460)] := by
  cases i
  case tst c rn rd op2 | teq c rn rd op2 | cmp c rn rd op2 | cmn c rn rd op2 =>
    exact congrArg (fun check => [(check, Fault.unpredictable 460)])
      (pcInRegShift_eq_shiftsByPc rfl fun r => List.mem_cons.trans (or_congr_left List.mem_singleton.symm))
  all_goals cases h

/-- An opcode that has operand 2 writes a result or tests. -/
theorem dataSpec_or_testSpec (h : operand2Of i = some op2) (s : State) :
    (∃ d, dataSpec i s = some d) ∨ ∃ f, testSpec i s = some f := by
  cases i
  case and | eor | sub | rsb | add | adc | sbc | rsc | orr | mov | bic | mvn => exact .inl ⟨_, rfl⟩
  case tst | teq | cmp | cmn => exact .inr ⟨_, rfl⟩
  all_goals cases h

theorem returnsWithPc_of_testSpec {f : Flags} (h : testSpec i s = some f) : returnsWithPc i = true := by
  cases i
  case ldmRet => cases h
  all_goals rfl

theorem operand2_of_shiftsByPc (h : shiftsByPc i = true) : ∃ op2, operand2Of i = some op2 := by
  rw [shiftsByPc] at h
  split at h
  next operand2 => exact ⟨_, operand2⟩
  next => cases h

end

/-! ## Classes and forms that stop without ARM_COMPLETION -/

theorem exec_of_unimplemented {i : Instr} {s : State} {k : UnimplementedClass} (ready : Ready i s)
    (normative : s.armCompletion = false) (h : unimplementedAs i = some k) : exec i s = .fault (.unimplemented k) := by
  refine exec_of_wordFault ready ?form fun rest => ?fault
  case form =>
    cases i
    case ldmRet => cases h
    all_goals rfl
  case fault => simp [wordChecks, ownChecks, h, unimplementedCheck, normative, checked_cons]

theorem exec_of_undefined {i : Instr} {s : State} {f : Family} (ready : Ready i s) (normative : s.armCompletion = false)
    (h : undefinedAs i = some f) : exec i s = .fault (.undefined f) := by
  rw [exec_ready ready]
  cases i
  case undefHalfword | undefSignedStore | undefGap | undefTest =>
    cases h
    exact if_neg (by simp [normative])
  all_goals cases h

/-- The return forms are the result opcodes with Rd = R15 and S = 1, and the LDMs of `ldmReturnSpec`. -/
theorem return_form {i : Instr} {s : State} (h : returnsFromException i s = true) :
    (∃ d, dataSpec i s = some d ∧ d.rd = 15 ∧ d.sf = true) ∨ ∃ b, ldmReturnSpec i = some b := by
  unfold returnsFromException at h
  split at h
  next => exact .inr ⟨_, rfl⟩
  next => exact .inr ⟨_, if_pos (beq_iff_eq.1 h)⟩
  next =>
    obtain ⟨d, spec, returns⟩ := Option.any_eq_true _ _ |>.1 h
    obtain ⟨toPc, flags⟩ := Bool.and_eq_true_iff.1 returns
    exact .inl ⟨d, spec, beq_iff_eq.1 toPc, flags⟩

theorem result_return_not_in_source {i : Instr} {s : State} {d : DataSpec} (h : dataSpec i s = some d) (toPc : d.rd = 15)
    (flags : d.sf = true) (ready : Ready i s) (normative : s.armCompletion = false)
    (implemented : unimplementedAs i = none) : exec i s = .fault (.notInSource 507) := by
  obtain ⟨rn, op2, k, -, runs⟩ := exec_of_resultChecks h ready (.inr implemented)
  simp [runs, resultChecks, checked_cons, toPc, flags, normative]

theorem ldm_return_not_in_source {i : Instr} {s : State} {b : BlockSpec} (h : ldmReturnSpec i = some b)
    (ready : Ready i s) (normative : s.armCompletion = false) : exec i s = .fault (.notInSource 857) := by
  obtain ⟨reads, k, runs⟩ := handler_of_ldmReturnSpec h (clearHazard s)
  simp [exec_ready ready, runs, ldmRetChecks, checked_cons, normative]

end Sys2Proof.Machine

open Sys2Proof Sys2Proof.Machine

/-- Settles O22: the instruction ends with its row's value in Rd, its flags if S = 1, and the step. -/
theorem dataProcessingResults : Obligations.DataProcessingResults := by
  intro i s d h ready written implemented noPcShift notPc
  obtain ⟨given, runs⟩ := exec_of_dataSpec h ready written implemented noPcShift (.inr notPc)
  exact ⟨_, runs.trans (finishResult_register _ _ _ notPc), writes_step _ _ _ _ _ notPc⟩

/-- Settles O23: R460 is the only check of a test opcode's form, and its effect is its row's flags and the step. -/
theorem testOpcodeResults : Obligations.TestOpcodeResults := by
  intro i s f h ready written implemented noPcShift
  have pass : ∀ c ∈ wordChecks i s, c.1 = false := by
    rw [wordChecks, formChecks_of_testSpec h, noPcShift]
    exact List.forall_mem_append.2 ⟨ownChecks_pass implemented, by simp⟩
  obtain ⟨given, effect⟩ := core_of_testSpec (s := clearHazard s) ((testSpec_clearHazard i s).trans h)
  exact ⟨_, (exec_of_core ready pass written (returnsWithPc_of_testSpec h)).trans effect, tests_step ..⟩

/-- Settles O25: the checks of R510 come in the order of the statement; behind them the form resumes from the SPSR. -/
theorem dataProcessingReturn : Obligations.DataProcessingReturn := by
  intro i s d h toPc flags ready
  refine ⟨fun normative implemented => result_return_not_in_source h toPc flags ready normative implemented,
    fun completed => ?completed⟩
  obtain ⟨rn, op2, k, sameShift, runs⟩ := exec_of_resultChecks h ready (.inl completed)
  refine ⟨fun noSpsr => ?noSpsr, fun p saved => ⟨fun shifted => ?shifted, fun notShifted written => ?returns⟩⟩
  case noSpsr =>
    simp [runs, resultChecks, checked_cons, toPc, flags, completed, (hasSpsr_eq_false_iff s).2 noSpsr]
  all_goals have hasSpsr : s.cpsr.mode.hasSpsr = true := hasSpsr_of_spsrCheck (spsrCheck_pass saved)
  case shifted =>
    rw [toPc] at sameShift
    simp [runs, resultChecks, checked_cons, toPc, completed, hasSpsr, sameShift, shifted]
  case returns =>
    obtain ⟨rd, sf, target, newFlags⟩ := d
    cases toPc
    cases flags
    have savedWritten : ∀ q ∈ spsrParts s.cpsr.mode, q ∉ s.unwritten := by
      obtain ⟨_, _, sources, _, run⟩ := resultRun_of_dataSpec h
      exact fun q member => written q (run.reads ▸ List.mem_append_right _ member)
    have resumes : exec i s = resumeAt target p (clearHazard s) :=
      (exec_return_of_dataSpec h ready written completed hasSpsr notShifted).trans
        (exceptionReturn_of_spsr ((spsrOf_clearHazard _ s).trans saved) savedWritten)
    refine ⟨fun noMode => resumes.trans (resumeAt_noMode noMode),
      fun isMode arm odd => resumes.trans (resumeAt_misaligned isMode arm odd), fun isMode word => ?resumes⟩
    obtain ⟨t, answers, returns, -⟩ := resumeAt_returns isMode word (kept_clearHazard [] [] s) (clearHazard_ldmUserHazard s)
    exact ⟨t, resumes.trans answers, returns⟩

/-- Settles O26: each class and form stops at the check that its handler makes first; R460 comes after those of a
return form. -/
theorem classesLeftToCompletion : Obligations.ClassesLeftToCompletion := by
  refine ⟨fun i s ready normative => ⟨fun k => exec_of_unimplemented ready normative,
    fun f => exec_of_undefined ready normative, fun returns implemented => ?returns⟩,
    fun i s ready implemented shifted noReturn => ?shifted⟩
  case returns =>
    obtain ⟨d, spec, toPc, flags⟩ | ⟨b, spec⟩ := return_form returns
    · exact ⟨507, result_return_not_in_source spec toPc flags ready normative implemented⟩
    · exact ⟨857, ldm_return_not_in_source spec ready normative⟩
  case shifted =>
    obtain ⟨op2, operand2⟩ := operand2_of_shiftsByPc shifted
    obtain ⟨d, spec⟩ | ⟨f, spec⟩ := dataSpec_or_testSpec operand2 s
    · exact result_faults_shift spec ready implemented shifted noReturn
    · refine exec_of_wordFault ready (returnsWithPc_of_testSpec spec) fun k => ?_
      rw [wordChecks, formChecks_of_testSpec spec, checked_append, checked_pass _ (ownChecks_pass implemented), shifted]
      rfl

end

section
/-! PROOFS. The multiplies (43_multiply R601 to R617): what MUL and MLA end with, the 64-bit arithmetic of the long
multiplies, and the register restrictions. -/

namespace Sys2Proof.Machine

/-! ## What is kept through each kind of update -/

section
variable {regs : List PhysReg} {bytes : List Word} {s t u : State}

/-- A state with the same registers, memory, SPSRs, fault record and setting keeps as much. -/
theorem Kept.of_same (h : Kept regs bytes s t) (sameRegs : u.regs = t.regs) (mem : u.mem = t.mem)
    (spsr : ∀ m, spsrOf m u = spsrOf m t) (fault : u.fault = t.fault) (completion : u.armCompletion = t.armCompletion) :
    Kept regs bytes s u :=
  ⟨fun p outside => (congrArg (Regs.get · p) sameRegs).trans (h.regs p outside), fun a outside => mem ▸ h.mem a outside,
    fun m => (spsr m).trans (h.spsr m), fault.trans h.fault, completion.trans h.completion⟩

theorem Kept.stepPc (h : Kept regs bytes s t) : Kept regs bytes s (stepPc t) :=
  h.of_same rfl rfl (spsrOf_stepPc · t) rfl rfl

theorem Kept.setPc (h : Kept regs bytes s t) (v : Word) : Kept regs bytes s { t with pc := v } :=
  h.of_same rfl rfl (fun m => by cases m <;> rfl) rfl rfl

/-- A register write keeps the rest where the list names the register behind the one written. -/
theorem Kept.writeRegIn (h : Kept regs bytes s t) {m : Mode} {r : RegIdx} (named : ∀ p, view m r = some p → p ∈ regs)
    (v : Word) : Kept regs bytes s (writeRegIn m r v t) := by
  refine ⟨fun p outside => ?_, fun a outside => by simpa using h.mem a outside, fun n => by simpa using h.spsr n,
    by simpa using h.fault, by simpa using h.completion⟩
  rw [Machine.writeRegIn]
  split
  next q written => exact (regs_get_set_other _ _ (by rintro rfl; exact outside (named _ written))).trans (h.regs p outside)
  next => exact h.regs p outside

theorem Kept.writeReg (h : Kept regs bytes s t) (mode : t.cpsr.mode = s.cpsr.mode) {r : RegIdx} {rs : List RegIdx}
    (named : regs = physOf s rs) (member : r ∈ rs) (v : Word) : Kept regs bytes s (writeReg r v t) :=
  h.writeRegIn (fun _ behind => named ▸ mem_physOf.2 ⟨r, member, mode ▸ behind⟩) v

/-- The control byte is kept where the CPSR differs in its flags alone. -/
theorem plain_of_cpsr {f : Flags} (cpsr : t.cpsr = { s.cpsr with flags := f }) (clear : t.ldmUserHazard = false) :
    Plain s t := by
  refine ⟨?_, ?_, ?_, ?_, clear⟩ <;> rw [cpsr]

end

/-! ## A register result after the flags -/

/-- Where only the flags have changed, a register result and the step change Rd and the pc besides. -/
theorem Jumps.writes {rd : RegIdx} {f : Flags} {s u : State} (h : Jumps s.pc f s u) (v : Word) (notPc : rd ≠ 15) :
    Writes rd v f s (stepPc (writeReg rd v u)) := by
  obtain ⟨pc, flags, kept, i, fiq, thumb, mode, hazard⟩ := h
  refine ⟨?result, by simpa using flags, by simp [pc], ?kept, ?plain⟩
  case result => rw [readReg_stepPc _ notPc, readReg_writeReg_same _ _ notPc]
  case kept => exact ((kept.weaken _).writeReg mode rfl (List.mem_singleton_self rd) v).stepPc
  case plain =>
    exact ⟨by simpa using i, by simpa using fiq, by simpa using thumb, by simpa using mode, by simpa using hazard⟩

/-- The same for a result that goes to the pc. -/
theorem Jumps.setPc {target : Word} {f : Flags} {s u : State} (h : Jumps target f s u) (v : Word) :
    Jumps v f s { u with pc := v } :=
  ⟨rfl, h.flags, h.kept.setPc v, h.plain.i, h.plain.f, h.plain.thumb, h.plain.mode, h.plain.hazard⟩

/-! ## MUL and MLA (R601 to R606) -/

/-- The flags after a MUL or MLA that draws `carry` (R602). -/
def multiplied (sf : Bool) (v : Word) (s : State) (carry : Bool) : Flags :=
  if sf then ⟨v.msb, decide (v = 0#32), carry, s.cpsr.flags.v⟩ else s.cpsr.flags

/-- MUL and MLA write their result after changing the flags alone. -/
theorem finishMultiply_ends (sf : Bool) (rd : RegIdx) (v : Word) (s : State) :
    ∃ u carry, finishMultiply sf rd v (clearHazard s) = writeResult rd v u ∧ Jumps s.pc (multiplied sf v s carry) s u := by
  cases sf with
  | false => exact ⟨clearHazard s, false, rfl, jumps_to s.pc s⟩
  | true =>
    refine ⟨_, (drawn s).getLsbD 0, rfl, rfl, rfl, ?kept, rfl, rfl, rfl, rfl, rfl⟩
    case kept =>
      exact (kept_clearHazard [] [] s).of_same rfl rfl (fun m => by rw [spsrOf_afterDraw, spsrOf_setFlags]) rfl rfl

/-- What O27 says of an instruction whose effect is `finishMultiply` of `v`. -/
theorem multiply_results {i : Instr} {sf : Bool} {rd : RegIdx} {v : Word} {s : State}
    (runs : exec i s = finishMultiply sf rd v (clearHazard s)) :
    (rd ≠ 15 → ∃ carry, Completes i s (Writes rd v (multiplied sf v s carry) s)) ∧
      (rd = 15 → v.extractLsb' 0 2 = 0#2 → ∃ carry, Completes i s (Jumps v (multiplied sf v s carry) s)) ∧
      (rd = 15 → v.extractLsb' 0 2 ≠ 0#2 → exec i s = .fault (.unpredictable 112)) := by
  obtain ⟨u, carry, ends, flagsOnly⟩ := finishMultiply_ends sf rd v s
  rw [runs, ends]
  refine ⟨fun notPc => ⟨carry, ?register⟩, fun isPc aligned => ⟨carry, ?jumps⟩, fun isPc odd => ?faults⟩
  case register => exact ⟨_, (runs.trans ends).trans (writeResult_register _ _ notPc), flagsOnly.writes v notPc⟩
  case jumps =>
    subst isPc
    rw [writeResult_pc, writePc_aligned _ (misaligned_eq_false.2 aligned)] at ends
    exact ⟨_, runs.trans ends, flagsOnly.setPc v⟩
  case faults =>
    subst isPc
    rw [writeResult_pc, writePc_misaligned _ (bne_iff_ne.2 odd)]

theorem ofNat_mul_toNat (x y : Word) : BitVec.ofNat 32 (x.toNat * y.toNat) = x * y :=
  BitVec.eq_of_toNat_eq (by rw [BitVec.toNat_ofNat, BitVec.toNat_mul])

theorem ofNat_mul_add_toNat (x y z : Word) : BitVec.ofNat 32 (x.toNat * y.toNat + z.toNat) = x * y + z := by
  rw [BitVec.ofNat_add, ofNat_mul_toNat, BitVec.ofNat_toNat, BitVec.setWidth_eq]

/-! ## The 64-bit results (R612 to R615) -/

theorem unsignedProduct_eq (x y : Word) : unsignedProduct x y = BitVec.ofNat 64 (x.toNat * y.toNat) := by
  rw [BitVec.ofNat_mul, BitVec.ofNat_toNat, BitVec.ofNat_toNat, unsignedProduct]

theorem signedProduct_eq (x y : Word) : signedProduct x y = BitVec.ofInt 64 (x.toInt * y.toInt) :=
  (BitVec.ofInt_mul ..).symm

theorem toNat_append_words (hi lo : Word) : (hi ++ lo).toNat = 2 ^ 32 * hi.toNat + lo.toNat := by
  rw [BitVec.toNat_append, ← Nat.shiftLeft_add_eq_or_of_lt lo.isLt, Nat.shiftLeft_eq, Nat.mul_comm]

theorem append_eq_ofNat (hi lo : Word) : hi ++ lo = BitVec.ofNat 64 (2 ^ 32 * hi.toNat + lo.toNat) := by
  apply BitVec.eq_of_toNat_eq
  rw [BitVec.toNat_ofNat, toNat_append_words, Nat.mod_eq_of_lt (by omega)]

/-- The accumulator as a signed number: the high word carries the sign. -/
theorem append_eq_ofInt (hi lo : Word) : hi ++ lo = BitVec.ofInt 64 (2 ^ 32 * hi.toInt + lo.toNat) := by
  apply BitVec.eq_of_toNat_eq
  rw [BitVec.toNat_ofInt, toNat_append_words, BitVec.toInt_eq_toNat_cond]
  omega

/-! ## The long multiplies -/

section
variable {i : Instr} {s : State} {l : LongSpec}

/-- A long multiply writes the 64-bit result of its row. -/
theorem core_of_longSpec (h : longSpec i s = some l) : core i s = finishLongMultiply l.sf l.hi l.lo l.value s := by
  cases i
  case umull c sf hi lo rs rm =>
    cases h
    exact congrArg (finishLongMultiply sf hi lo · s) ((BitVec.add_zero _).trans (unsignedProduct_eq ..))
  case smull c sf hi lo rs rm =>
    cases h
    exact congrArg (finishLongMultiply sf hi lo · s) ((BitVec.add_zero _).trans (signedProduct_eq ..))
  case umlal c sf hi lo rs rm =>
    cases h
    refine congrArg (finishLongMultiply sf hi lo · s) ?_
    rw [BitVec.ofNat_add, ← unsignedProduct_eq, ← append_eq_ofNat]
    rfl
  case smlal c sf hi lo rs rm =>
    cases h
    refine congrArg (finishLongMultiply sf hi lo · s) ?_
    rw [BitVec.ofInt_add, ← signedProduct_eq, ← append_eq_ofInt]
    rfl
  all_goals cases h

theorem longMultiplyFault_eq_false_iff : longMultiplyFault l.hi l.lo l.rs l.rm = false ↔ l.Legal := by
  constructor
  · intro h
    simp only [longMultiplyFault, Bool.or_eq_false_iff, beq_eq_false_iff_ne] at h
    obtain ⟨⟨⟨pc, hiLo⟩, hiRm⟩, loRm⟩ := h
    exact ⟨fun named => Bool.false_ne_true (pc.symm.trans (List.contains_iff_mem.2 named)), hiLo, hiRm, loRm⟩
  · rintro ⟨pc, hiLo, hiRm, loRm⟩
    simp only [longMultiplyFault, Bool.or_eq_false_iff, beq_eq_false_iff_ne]
    exact ⟨⟨⟨Bool.eq_false_iff.2 (mt List.contains_iff_mem.1 pc), hiLo⟩, hiRm⟩, loRm⟩

theorem formChecks_of_longSpec (h : longSpec i s = some l) :
    formChecks i s = [(longMultiplyFault l.hi l.lo l.rs l.rm, .unpredictable 617)] := by
  cases i
  case umull | umlal | smull | smlal =>
    cases h
    rfl
  all_goals cases h

theorem returnsWithPc_of_longSpec (h : longSpec i s = some l) : returnsWithPc i = true := by
  cases i
  case ldmRet => cases h
  all_goals rfl

/-- The halves go to two registers, whichever is written last. -/
theorem finishLongMultiply_writes (legal : l.Legal) (s : State) :
    ∃ t c v, finishLongMultiply l.sf l.hi l.lo l.value (clearHazard s) = .next t ∧
      WritesLong l (if l.sf then ⟨l.value.msb, decide (l.value = 0#64), c, v⟩ else s.cpsr.flags) s t := by
  let w := writeReg l.hi (l.value.extractLsb' 32 32) (writeReg l.lo (l.value.extractLsb' 0 32) (clearHazard s))
  have notPc : l.hi ≠ 15 ∧ l.lo ≠ 15 := by
    have := legal.pc
    simp_all [eq_comm]
  have hi : readReg w l.hi = l.value.extractLsb' 32 32 := readReg_writeReg_same _ _ notPc.1
  have lo : readReg w l.lo = l.value.extractLsb' 0 32 :=
    (readReg_writeReg_other _ _ legal.hiLo).trans (readReg_writeReg_same _ _ notPc.2)
  have kept : Kept (physOf s [l.hi, l.lo]) [] s w :=
    ((kept_clearHazard _ _ s).writeReg rfl rfl (by simp) _).writeReg (by simp) rfl (by simp) _
  cases flagged : l.sf with
  | false =>
    refine ⟨stepPc w, false, false, rfl, ?_⟩
    exact ⟨(readReg_stepPc _ notPc.1).trans hi, (readReg_stepPc _ notPc.2).trans lo, by simp [w], by simp [w], kept.stepPc,
      plain_of_cpsr (by simp [w]; rfl) (by simp [w])⟩
  | true =>
    refine ⟨_, (drawn s).getLsbD 0, (drawn s).getLsbD 1, rfl, ?_⟩
    refine ⟨(readReg_stepPc _ notPc.1).trans hi, (readReg_stepPc _ notPc.2).trans lo, rfl, by simp, ?kept,
      plain_of_cpsr (by simp; rfl) (by simp)⟩
    case kept =>
      exact Kept.stepPc (kept.of_same rfl rfl (fun m => by rw [if_pos rfl, spsrOf_afterDraw, spsrOf_setFlags]) rfl rfl)

end

end Sys2Proof.Machine

open Sys2Proof Sys2Proof.Machine

/-- Settles O27: with its sources allowed, the instruction ends as `finishMultiply` does with the value of its rule. -/
theorem multiplyResults : Obligations.MultiplyResults := by
  intro c sf rd rn rs rm s rmNotPc rsNotPc
  refine ⟨fun ready written => ?mul, fun rnNotPc ready written => ?mla⟩
  case mul =>
    rw [ofNat_mul_toNat]
    refine multiply_results (exec_of_core ready ?pass written rfl)
    case pass => simp [wordChecks, formChecks, ownChecks, unimplementedAs, rmNotPc, rsNotPc]
  case mla =>
    rw [ofNat_mul_add_toNat]
    refine multiply_results (exec_of_core ready ?pass written rfl)
    case pass => simp [wordChecks, formChecks, ownChecks, unimplementedAs, rmNotPc, rsNotPc, rnNotPc]

/-- Settles O28: a legal, completed long multiply writes both halves of its row's value. -/
theorem longMultiplyResults : Obligations.LongMultiplyResults := by
  intro i s l h ready written completed legal
  have pass : ∀ c ∈ wordChecks i s, c.1 = false := by
    rw [wordChecks, formChecks_of_longSpec h, longMultiplyFault_eq_false_iff.2 legal]
    exact List.forall_mem_append.2 ⟨ownChecks_pass (.inl completed), by simp⟩
  have effect := core_of_longSpec (s := clearHazard s) ((longSpec_clearHazard i s).trans h)
  obtain ⟨t, c, v, answers, writes⟩ := finishLongMultiply_writes legal s
  exact ⟨c, v, t, (exec_of_core ready pass written (returnsWithPc_of_longSpec h)).trans (effect.trans answers), writes⟩

/-- Settles O29: the registers are checked before anything is read. -/
theorem multiplyFaults : Obligations.MultiplyFaults := by
  refine ⟨fun c sf rd rn rs rm s => ⟨fun ready pc => ?mul, fun ready pc => ?mla⟩, fun i s l h ready completed illegal => ?long⟩
  case mul =>
    refine exec_of_wordFault ready rfl fun k => ?_
    simp [wordChecks, formChecks, ownChecks, unimplementedAs, checked_cons, pc]
  case mla =>
    refine exec_of_wordFault ready rfl fun k => ?_
    simp [wordChecks, formChecks, ownChecks, unimplementedAs, checked_cons, or_assoc, pc]
  case long =>
    refine exec_of_wordFault ready (returnsWithPc_of_longSpec h) fun k => ?_
    have fault : longMultiplyFault l.hi l.lo l.rs l.rm = true :=
      Bool.of_not_eq_false (mt longMultiplyFault_eq_false_iff.1 illegal)
    rw [wordChecks, formChecks_of_longSpec h, checked_append, checked_pass _ (ownChecks_pass (.inl completed)), fault]
    rfl

end

section
/-! PROOFS. MRS and MSR (44_status R650 to R663): what an MRS puts in a register, what an MSR writes of each PSR, and the
checks that stop one. -/

namespace Sys2Proof.Machine

/-! ## MRS (R650, R651) -/

section
variable {c : Cond} {psr : PsrSel} {rd : RegIdx} {s : State}

/-- An MRS of a PSR that is there puts its flags and its control byte in Rd. -/
theorem mrs_register_writes (hasPsr : (spsrCheck psr s).1 = false) (ready : Ready (.mrs c psr rd) s)
    (written : Written (.mrs c psr rd) s) (notPc : rd ≠ 15) :
    let f := (psrParts psr s).flags
    ∃ v : Word, v.getLsbD 31 = f.n ∧ v.getLsbD 30 = f.z ∧ v.getLsbD 29 = f.c ∧ v.getLsbD 28 = f.v ∧
      v.extractLsb' 0 8 = (psrParts psr s).control ∧ Completes (.mrs c psr rd) s (Writes rd v s.cpsr.flags s) := by
  obtain ⟨n, z, carry, v⟩ := Flags.mk.inj (flagsOf_mrsValue psr s)
  exact ⟨mrsValue psr s, n, z, carry, v, mrsValue_control psr s, _,
    (exec_mrs hasPsr ready written).trans (writeResult_register _ _ notPc),
    (jumps_afterDraw s.pc s).writes (mrsValue psr s) notPc⟩

end

/-! ## The checks of an MSR (R662) -/

/-- Field c of the CPSR is written outside User mode (R661, 60_exceptions R1081). -/
theorem ctrlWritten_iff {cf : Bool} {s : State} : ctrlWritten cf s = true ↔ cf = true ∧ s.cpsr.mode ≠ .usr := by
  rw [ctrlWritten, Bool.and_eq_true, Mode.privileged, bne_iff_ne]

section
variable {i : Instr} {s : State} {psr : PsrSel} {ff cf : Bool} {v : Word}

/-- An MSR of a value looks for its PSR first, and no check of its word stops it where that is there. -/
theorem wordChecks_of_msrSpec (h : msrSpec i s = some (psr, ff, cf, v)) :
    ∃ rest, wordChecks i s = spsrCheck psr s :: rest ∧ ∀ c ∈ rest, c.1 = false := by
  cases i
  case msrReg c psr fields ignored rm =>
    rw [msrSpec] at h
    split at h
    next => cases h
    next notPc =>
      cases h
      exact ⟨[(rm == 15, .unpredictable 662)], rfl, by simp [notPc]⟩
  case msrImm c psr fields ignored rot imm8 =>
    cases h
    exact ⟨[], rfl, by simp⟩
  all_goals cases h

theorem core_of_msrSpec (h : msrSpec i s = some (psr, ff, cf, v)) : core i s = msrCore psr ⟨ff, cf⟩ v s := by
  cases i
  case msrReg c psr fields ignored rm =>
    rw [msrSpec] at h
    split at h
    next => cases h
    next notPc =>
      cases h
      rfl
  case msrImm c psr fields ignored rot imm8 =>
    rw [msrSpec, ← rotatedImm_eq] at h
    cases h
    rfl
  all_goals cases h

theorem returnsWithPc_of_msrSpec (h : msrSpec i s = some (psr, ff, cf, v)) : returnsWithPc i = true := by
  cases i
  case ldmRet => cases h
  all_goals rfl

/-- A ready MSR of a written value to a PSR that is there ends with the checks of the value and its effect. -/
theorem exec_of_msrSpec (h : msrSpec i s = some (psr, ff, cf, v)) (ready : Ready i s) (written : Written i s)
    (hasPsr : (spsrCheck psr s).1 = false) : exec i s = msrCore psr ⟨ff, cf⟩ v (clearHazard s) := by
  obtain ⟨rest, checks, pass⟩ := wordChecks_of_msrSpec h
  rw [exec_of_core ready (checks ▸ List.forall_mem_cons.2 ⟨hasPsr, pass⟩) written (returnsWithPc_of_msrSpec h)]
  exact core_of_msrSpec ((msrSpec_clearHazard i s).trans h)

/-- The value passes where field c writes no other T and no mode bits but those of a mode. -/
theorem msrValueChecks_pass (valid : cf = true ∧ s.cpsr.mode ≠ .usr →
    v.getLsbD 5 = s.cpsr.t ∧ modeOf (v.extractLsb' 0 5) ≠ none) :
    ∀ c ∈ msrValueChecks .cpsr ⟨ff, cf⟩ v s, c.1 = false := by
  by_cases ctrl : ctrlWritten cf s = true
  case pos =>
    obtain ⟨thumb, isMode⟩ := valid (ctrlWritten_iff.1 ctrl)
    have isSome : (modeOf (v.extractLsb' 0 5)).isSome = true := Option.isSome_iff_ne_none.2 isMode
    simp only [msrValueChecks, thumb]
    simp [isSome]
  case neg => simp [msrValueChecks, ctrl]

theorem msrCore_invalid (ctrl : ctrlWritten cf s = true)
    (invalid : v.getLsbD 5 ≠ s.cpsr.t ∨ modeOf (v.extractLsb' 0 5) = none) :
    msrCore .cpsr ⟨ff, cf⟩ v s = .fault (.unpredictable 662) := by
  rw [msrCore, msrValueChecks, checked_cons, checked_cons, ctrl]
  by_cases thumb : v.getLsbD 5 = s.cpsr.t
  case neg => exact if_pos (by simpa using thumb)
  case pos =>
    have noMode := invalid.resolve_left (absurd thumb)
    rw [thumb, noMode]
    simp

/-! ## What an MSR writes (R661, R663) -/

theorem spsrOf_msrEffect_cpsr (fields : MsrFields) (m : Mode) :
    spsrOf m (msrEffect .cpsr fields v s) = spsrOf m s := by
  rw [msrEffect, spsrOf_give, spsrOf_stepPc]
  cases m <;> rfl

theorem msrCpsr_written {fields : MsrFields} (ctrl : ctrlWritten fields.ctrl s = true)
    (isMode : modeOf (v.extractLsb' 0 5) ≠ none) :
    (msrCpsr fields v s).i = v.getLsbD 7 ∧ (msrCpsr fields v s).f = v.getLsbD 6 ∧
      (msrCpsr fields v s).mode.bits = v.extractLsb' 0 5 := by
  obtain ⟨m, named⟩ := Option.ne_none_iff_exists'.1 isMode
  rw [msrCpsr, if_pos ctrl]
  refine ⟨rfl, rfl, ?_⟩
  rw [msrControl, named]
  exact (modeOf_eq_some.1 named).symm

theorem msrCpsr_kept {fields : MsrFields} (ctrl : ¬ctrlWritten fields.ctrl s = true) :
    msrCpsr fields v s = { s.cpsr with flags := msrFlags fields.flags v s.cpsr.flags } := by
  rw [msrCpsr, if_neg ctrl]

theorem spsrOf_msrEffect_spsr {p : Spsr} (saved : spsrOf s.cpsr.mode s = some p) (fields : MsrFields) (m : Mode) :
    spsrOf m (msrEffect .spsr fields v s) = if m = s.cpsr.mode then some (msrSpsr fields v p) else spsrOf m s := by
  have hasSpsr : s.cpsr.mode.hasSpsr = true := hasSpsr_of_spsrCheck (spsrCheck_pass saved)
  rw [msrEffect, spsrOf_give, spsrOf_stepPc, spsrOf_setSpsr, psrParts_spsr saved]
  simp only [hasSpsr, and_true]

end

end Sys2Proof.Machine

open Sys2Proof Sys2Proof.Machine

/-- Settles O30: the value is that of the PSR named; without an SPSR the first check faults. -/
theorem mrsResults : Obligations.MrsResults := by
  intro c rd s
  refine ⟨fun ready written notPc => mrs_register_writes rfl ready written notPc, fun p saved ready written notPc => ?spsr,
    fun none ready => ?none⟩
  case spsr =>
    cases psrParts_spsr saved
    exact mrs_register_writes (spsrCheck_pass saved) ready written notPc
  case none =>
    refine exec_of_wordFault ready rfl fun k => ?_
    simp [wordChecks, ownChecks, unimplementedAs, formChecks, checked_cons, spsrCheck, (hasSpsr_eq_false_iff s).2 none]

/-- Settles O32: behind the checks of the value the effect writes the parts that the mask names. -/
theorem msrWritesCpsr : Obligations.MsrWritesCpsr := by
  intro i s ff cf v h ready written ctrl valid
  have pass := msrValueChecks_pass (s := clearHazard s) (ff := ff) valid
  have runs := (exec_of_msrSpec h ready written rfl).trans (checked_pass _ pass)
  refine ⟨_, runs, msrCpsr_flags, fun isCtrl => ?control, fun notCtrl => ?kept, msrCpsr_thumb .., rfl, rfl, ?rest⟩
  case control => exact msrCpsr_written (s := clearHazard s) (ctrlWritten_iff.2 isCtrl) (valid isCtrl).2
  case kept =>
    have kept := msrCpsr_kept (s := clearHazard s) (fields := ⟨ff, cf⟩) (v := v) (mt ctrlWritten_iff.1 notCtrl)
    exact ⟨(congrArg Cpsr.i kept :), (congrArg Cpsr.f kept :), (congrArg Cpsr.mode kept :)⟩
  case rest =>
    exact ⟨fun _ _ => rfl, fun _ _ => rfl, fun m => (spsrOf_msrEffect_cpsr ..).trans (spsrOf_clearHazard m s), rfl, rfl⟩

/-- Settles O33: no value stops an MSR to the SPSR, only a mode without one. -/
theorem msrWritesSpsr : Obligations.MsrWritesSpsr := by
  intro i s ff cf v h ready
  refine ⟨fun none => ?none, fun p saved written => ?writes⟩
  case none =>
    obtain ⟨rest, checks, -⟩ := wordChecks_of_msrSpec h
    refine exec_of_wordFault ready (returnsWithPc_of_msrSpec h) fun k => ?_
    simp [checks, checked_cons, spsrCheck, (hasSpsr_eq_false_iff s).2 none]
  case writes =>
    have runs := exec_of_msrSpec h ready written (spsrCheck_pass saved)
    have savedThere : spsrOf s.cpsr.mode (clearHazard s) = some p := (spsrOf_clearHazard _ s).trans saved
    have spsrs := spsrOf_msrEffect_spsr (s := clearHazard s) (v := v) savedThere ⟨ff, cf⟩
    refine ⟨msrEffect .spsr ⟨ff, cf⟩ v (clearHazard s), runs.trans (checked_pass _ ?pass), ?named, fun m other => ?others,
      ?_, ?_, ?_, ?_, ?_, ?_, ?_⟩
    case pass => simp [msrValueChecks]
    case named => exact (spsrs _).trans (if_pos rfl)
    case others => exact (spsrs m).trans ((if_neg other).trans (spsrOf_clearHazard m s))
    all_goals simp [msrEffect]

/-- Settles O34: R15 is checked by the word, behind the SPSR; the value behind the marks. -/
theorem msrFaults : Obligations.MsrFaults := by
  refine ⟨fun c psr fields x s ready there => ?pc, fun c fields x s ready none => ?none,
    fun i s ff v h ready written privileged invalid => ?invalid⟩
  case pc =>
    have hasPsr : (spsrCheck psr s).1 = false := by
      cases psr with
      | cpsr => rfl
      | spsr =>
        obtain ⟨p, saved⟩ := Option.ne_none_iff_exists'.1 (there.resolve_left (by decide))
        exact spsrCheck_pass saved
    refine exec_of_wordFault ready rfl fun k => ?_
    rw [wordChecks, formChecks, checked_append, checked_cons, checked_cons]
    simp [ownChecks, unimplementedAs, hasPsr]
  case none =>
    refine exec_of_wordFault ready rfl fun k => ?_
    simp [wordChecks, ownChecks, unimplementedAs, formChecks, checked_cons, spsrCheck, (hasSpsr_eq_false_iff s).2 none]
  case invalid =>
    rw [exec_of_msrSpec h ready written rfl]
    exact msrCore_invalid (s := clearHazard s) (ctrlWritten_iff.2 ⟨rfl, privileged⟩) invalid

end

section
/-! PROOFS. Single and halfword transfers and swaps (46_single R750 to R757, 47_halfword R800 to R832): a base that may move,
stores that meet the prefetched words or write their bytes, and the loads. -/

namespace Sys2Proof.Machine

/-! ## A base that may move (46_single R752) -/

/-- The register moves where the form says so. -/
def moveBase (moves : Bool) (r : RegIdx) (v : Word) (s : State) : State := if moves then writeReg r v s else s

section
variable (moves : Bool) (r : RegIdx) (v : Word) (s : State)

@[simp] theorem moveBase_pc : (moveBase moves r v s).pc = s.pc := by cases moves <;> simp [moveBase]
@[simp] theorem moveBase_cpsr : (moveBase moves r v s).cpsr = s.cpsr := by cases moves <;> simp [moveBase]
@[simp] theorem moveBase_mem : (moveBase moves r v s).mem = s.mem := by cases moves <;> simp [moveBase]
@[simp] theorem moveBase_ldmUserHazard : (moveBase moves r v s).ldmUserHazard = s.ldmUserHazard := by
  cases moves <;> simp [moveBase]

end

theorem readReg_moveBase {moves : Bool} {r : RegIdx} (does : moves = true) (notPc : r ≠ 15) (v : Word) (s : State) :
    readReg (moveBase moves r v s) r = v := by
  rw [moveBase, if_pos does, readReg_writeReg_same _ _ notPc]

section
variable {regs : List PhysReg} {bytes : List Word} {s t : State}

theorem Kept.mono {regs' : List PhysReg} (h : Kept regs bytes s t) (sub : regs ⊆ regs') : Kept regs' bytes s t :=
  ⟨fun p outside => h.regs p fun inside => outside (sub inside), h.mem, h.spsr, h.fault, h.completion⟩

theorem physOf_mono {rs rs' : List RegIdx} (sub : rs ⊆ rs') : physOf s rs ⊆ physOf s rs' :=
  List.filterMap_subset _ sub

theorem Kept.moveBase {rs : List RegIdx} (h : Kept (physOf s rs) bytes s t) (mode : t.cpsr.mode = s.cpsr.mode)
    {moves : Bool} {r : RegIdx} (named : moves = true → r ∈ rs) (v : Word) :
    Kept (physOf s rs) bytes s (moveBase moves r v t) := by
  rw [Machine.moveBase]
  split
  next does => exact h.writeReg mode rfl (named does) v
  next => exact h

end

/-! ## Stores: the bytes written, or the prefetched words met (20_memory R204, 70_reset R1120) -/

section
variable {ws : List (Word × List Byte)} {bytes : List Word} {s : State}

/-- The bytes that a list of writes writes. -/
def Covers (bytes : List Word) (ws : List (Word × List Byte)) : Prop :=
  ∀ y, y ∈ bytes ↔ ∃ w ∈ ws, y ∈ bytesFrom w.1 w.2.length

theorem covers_single (a : Word) (bs : List Byte) : Covers (bytesFrom a bs.length) [(a, bs)] := by simp [Covers]

/-- Memory after a list of writes differs in the bytes written. -/
theorem Kept.storeAll {regs : List PhysReg} {t : State} (covers : Covers bytes ws) (h : Kept regs [] s t) (mem : t.mem = s.mem) :
    Kept regs bytes s { t with mem := storeAll t.mem ws } := by
  refine ⟨h.regs, fun y outside => ?_, fun m => (by cases m <;> rfl : _ = spsrOf m t).trans (h.spsr m), h.fault,
    h.completion⟩
  rw [← mem]
  exact readByte_storeAll_outside _ _ _ fun w member inside => outside ((covers y).2 ⟨w, member, inside⟩)

/-- The state after a store whose base may move, and the step. -/
structure Stores (ws : List (Word × List Byte)) (bytes : List Word) (moves : Bool) (r : RegIdx) (v : Word) (s t : State) :
    Prop where
  mem : t.mem = storeAll s.mem ws
  base : moves = true → readReg t r = v
  pc : t.pc = s.pc + 4#32
  cpsr : t.cpsr = s.cpsr
  hazard : t.ldmUserHazard = false
  kept : Kept (physOf s (if moves then [r] else [])) bytes s t

theorem Stores.plain {moves : Bool} {r : RegIdx} {v : Word} {t : State} (h : Stores ws bytes moves r v s t) :
    t.cpsr.flags = s.cpsr.flags ∧ Plain s t :=
  ⟨congrArg Cpsr.flags h.cpsr, plain_of_cpsr (f := s.cpsr.flags) h.cpsr h.hazard⟩

/-- A store clear of the prefetched words writes its bytes. -/
theorem store_stores {moves : Bool} {r : RegIdx} (covers : Covers bytes ws) (clear : ClearOfPrefetch s.pc bytes)
    (notPc : moves = true → r ≠ 15) (v : Word) :
    ∃ t, store ws (clearHazard s) (fun t => stepPc (moveBase moves r v t)) = .next t ∧
      Stores ws bytes moves r v s t := by
  have apart : ∀ w ∈ ws, ClearOfPrefetch s.pc (bytesFrom w.1 w.2.length) :=
    fun w member y inside => clear y ((covers y).2 ⟨w, member, inside⟩)
  refine ⟨_, store_clear (s := clearHazard s) _ apart, by simp, fun does => ?base, by simp, by simp, by simp, ?kept⟩
  case base => rw [readReg_stepPc _ (notPc does), readReg_moveBase does (notPc does)]
  case kept =>
    have written := (kept_clearHazard (physOf s (if moves then [r] else [])) [] s).storeAll covers rfl
    exact (written.moveBase rfl (fun does => by simp [does]) v).stepPc

/-- A store that would write a prefetched byte faults with the first one. -/
theorem store_faults {rest : State → State} (covers : Covers bytes ws)
    (hit : ∃ y ∈ bytes, (y - (s.pc + 4#32)).toNat < 8) :
    ∃ y ∈ bytes, (y - (s.pc + 4#32)).toNat < 8 ∧ store ws (clearHazard s) rest = .fault (.selfModifyHazard y) := by
  cases met : storeHit s.pc ws with
  | none =>
    obtain ⟨y, member, near⟩ := hit
    obtain ⟨w, written, inside⟩ := (covers y).1 member
    exact absurd near (of_decide_eq_false (storeHit_eq_none.1 met w written y inside))
  | some y =>
    obtain ⟨w, written, found⟩ := List.exists_of_findSome?_eq_some met
    have near : prefetched s.pc y = true := List.find?_some found
    refine ⟨y, (covers y).2 ⟨w, written, List.mem_of_find?_eq_some found⟩, of_decide_eq_true near, ?_⟩
    rw [store, clearHazard_pc, met]

end

/-! ## The transfers and their checks -/

section
variable {i : Instr} {s : State} {x : TransferSpec}

theorem TransferSpec.checks_pass (legal : x.Legal) (offRule baseRule : Nat) :
    ∀ c ∈ x.checks offRule baseRule, c.1 = false := by
  have pcBase : (x.ix.wb && x.rn == 15) = false := by
    rw [Bool.and_eq_false_iff]
    cases moves : x.ix.wb with
    | false => exact .inl rfl
    | true => exact .inr (beq_eq_false_iff_ne.2 (legal.base moves))
  simp [checks, legal.off, pcBase]

theorem formChecks_of_transferSpec (h : (∃ data, loadSpec i s = some (x, data)) ∨ ∃ a n, storeSpec i s = some (x, a, n)) :
    ∃ offRule baseRule, formChecks i s = x.checks offRule baseRule := by
  obtain ⟨data, h⟩ | ⟨a, n, h⟩ := h
  case inl =>
    cases i
    case ldr | ldrb | ldrt | ldrbt =>
      cases h
      exact ⟨753, 753, rfl⟩
    case ldrh | ldrsb | ldrsh =>
      cases h
      exact ⟨802, 803, rfl⟩
    all_goals cases h
  case inr =>
    cases i
    case str | strb | strt | strbt =>
      cases h
      exact ⟨753, 753, rfl⟩
    case strh =>
      cases h
      exact ⟨802, 803, rfl⟩
    all_goals cases h

theorem returnsWithPc_of_transferSpec
    (h : (∃ data, loadSpec i s = some (x, data)) ∨ ∃ a n, storeSpec i s = some (x, a, n)) : returnsWithPc i = true := by
  cases i
  case ldmRet => obtain ⟨data, h⟩ | ⟨a, n, h⟩ := h <;> cases h
  all_goals rfl

/-- A ready, legal transfer with written sources and of a class that may run has its effect. -/
theorem exec_of_transferSpec (h : (∃ data, loadSpec i s = some (x, data)) ∨ ∃ a n, storeSpec i s = some (x, a, n))
    (ready : Ready i s) (written : Written i s) (implemented : Implemented i s) (legal : x.Legal) :
    exec i s = core i (clearHazard s) := by
  obtain ⟨offRule, baseRule, checks⟩ := formChecks_of_transferSpec h
  refine exec_of_core ready ?pass written (returnsWithPc_of_transferSpec h)
  rw [wordChecks, checks]
  exact List.forall_mem_append.2 ⟨ownChecks_pass implemented, TransferSpec.checks_pass legal _ _⟩

theorem core_of_loadSpec {data : Word} (h : loadSpec i s = some (x, data)) :
    core i s = finishLoad x.rn x.rd x.ix data s := by
  cases i
  case ldr | ldrb | ldrt | ldrbt | ldrh | ldrsb | ldrsh =>
    cases h
    rfl
  all_goals cases h

theorem loadSpec_clearHazard (i : Instr) (s : State) : loadSpec i (clearHazard s) = loadSpec i s := by cases i <;> rfl

theorem storeSpec_clearHazard (i : Instr) (s : State) : storeSpec i (clearHazard s) = storeSpec i s := by cases i <;> rfl

theorem implemented_of_storeSpec {a : Word} {n : Nat} (h : storeSpec i s = some (x, a, n)) : Implemented i s := by
  cases i
  case str | strb | strt | strbt | strh => exact .inr rfl
  all_goals cases h

/-- The bytes of a value, in the order they are written. -/
def BytesOf (bs : List Byte) (n : Nat) (v : Word) : Prop :=
  bs.length = n ∧ ∀ (k : Nat) (inside : k < bs.length), bs[k] = v.extractLsb' (8 * k) 8

theorem bytesOf_wordBytes (v : Word) : BytesOf (wordBytes v) 4 v := ⟨rfl, fun _ inside => getElem_wordBytes v inside⟩

theorem bytesOf_lowByte (v : Word) : BytesOf (lowByte v) 1 v := by
  refine ⟨rfl, fun k inside => ?_⟩
  obtain rfl : k = 0 := Nat.lt_one_iff.1 inside
  rfl

theorem bytesOf_halfBytes (v : Word) : BytesOf (halfBytes (v.extractLsb' 0 16)) 2 v := by
  refine ⟨rfl, fun k inside => ?_⟩
  have low : k < 2 := inside
  rw [getElem_halfBytes, BitVec.extractLsb'_extractLsb'_of_le (by omega)]

/-- A write of the bytes of a value leaves them in memory. -/
theorem readByte_storeAll_single {bs : List Byte} {n : Nat} {v : Word} (h : BytesOf bs n v) (small : n ≤ 2 ^ 32) (m : Memory)
    (a : Word) {k : Nat} (inside : k < n) :
    readByte (storeAll m [(a, bs)]) (a + BitVec.ofNat 32 k) = v.extractLsb' (8 * k) 8 := by
  obtain ⟨rfl, bytes⟩ := h
  exact (readByte_writeBytes m a bs small k inside).trans (bytes k inside)

/-- A store writes the bytes of what its register stores. -/
theorem core_of_storeSpec {a : Word} {n : Nat} (h : storeSpec i s = some (x, a, n)) :
    ∃ bs, BytesOf bs n (storedSpec s x.rd) ∧ n ≤ 4 ∧ core i s = finishStore x.rn x.ix a bs s := by
  cases i
  case str | strt =>
    cases h
    exact ⟨_, bytesOf_wordBytes _, Nat.le_refl 4, rfl⟩
  case strb | strbt =>
    cases h
    exact ⟨_, bytesOf_lowByte _, by decide, rfl⟩
  case strh =>
    cases h
    exact ⟨_, bytesOf_halfBytes _, by decide, rfl⟩
  all_goals cases h

end

/-! ## The ends of a load (R755, R757) -/

section
variable {rn rd : RegIdx} {ix : Indexed} {data : Word} {s : State}

theorem finishLoad_eq (rn rd : RegIdx) (ix : Indexed) (data : Word) (s : State) :
    finishLoad rn rd ix data s = writeResult rd data (moveBase (ix.wb && rd != rn) rn ix.moved s) := rfl

/-- Rd is written after the base, and not over it. -/
theorem finishLoad_loads (notPc : rd ≠ 15) (base : ix.wb = true → rn ≠ 15) :
    ∃ t, finishLoad rn rd ix data (clearHazard s) = .next t ∧ readReg t rd = data ∧
      (ix.wb = true → rd ≠ rn → readReg t rn = ix.moved) ∧ t.pc = s.pc + 4#32 ∧ t.cpsr.flags = s.cpsr.flags ∧
      Kept (physOf s (if ix.wb then [rd, rn] else [rd])) [] s t ∧ Plain s t := by
  rw [finishLoad_eq, writeResult_register _ _ notPc]
  refine ⟨_, rfl, ?value, fun moves apart => ?base, by simp, by simp, ?kept, plain_of_cpsr (by simp; rfl) (by simp)⟩
  case value => rw [readReg_stepPc _ notPc, readReg_writeReg_same _ _ notPc]
  case base =>
    rw [readReg_stepPc _ (base moves), readReg_writeReg_other _ _ apart, readReg_moveBase (by simp [moves, apart]) (base moves)]
  case kept =>
    refine Kept.stepPc (Kept.writeReg (rs := if ix.wb then [rd, rn] else [rd]) ?_ (by simp) rfl (by split <;> simp) _)
    refine Kept.moveBase (kept_clearHazard _ [] s) rfl (fun moves => ?_) _
    rw [if_pos (Bool.and_eq_true_iff.1 moves).1]
    exact List.mem_cons_of_mem _ (List.mem_singleton_self rn)

/-- A value loaded into R15 goes to the pc, after the base. -/
theorem finishLoad_jumps (aligned : data.extractLsb' 0 2 = 0#2) (base : ix.wb = true → rn ≠ 15) :
    ∃ t, finishLoad rn 15 ix data (clearHazard s) = .next t ∧ t.pc = data ∧ (ix.wb = true → readReg t rn = ix.moved) ∧
      t.cpsr.flags = s.cpsr.flags ∧ Kept (physOf s (if ix.wb then [rn] else [])) [] s t ∧ Plain s t := by
  rw [finishLoad_eq, writeResult_pc, writePc_aligned _ (misaligned_eq_false.2 aligned)]
  refine ⟨_, rfl, rfl, fun moves => ?base, by simp, ?kept, plain_of_cpsr (by simp; rfl) (by simp)⟩
  case base =>
    rw [readReg_setPc _ _ (base moves), readReg_moveBase (by simp [moves, (base moves).symm]) (base moves)]
  case kept =>
    refine Kept.setPc (Kept.moveBase (kept_clearHazard _ [] s) rfl (fun moves => ?_) _) data
    rw [if_pos (Bool.and_eq_true_iff.1 moves).1]
    exact List.mem_singleton_self rn

theorem finishLoad_misaligned (odd : data.extractLsb' 0 2 ≠ 0#2) :
    finishLoad rn 15 ix data s = .fault (.unpredictable 112) := by
  rw [finishLoad_eq, writeResult_pc, writePc_misaligned _ (bne_iff_ne.2 odd)]

end

/-! ## Swaps (47_halfword R830 to R833) -/

theorem bytesFrom_one (a : Word) : bytesFrom a 1 = [a] := by simp [bytesFrom]

/-- A swap stores Rm and writes Rd behind the store. -/
theorem swapCore_eq (rn rd rm : RegIdx) (read : Memory → Word → Word) (align : Word → Word) (bytes : Word → List Byte)
    (s : State) :
    swapCore rn rd rm read align bytes s = store [(align (readReg s rn), bytes (readReg s rm))] s fun t =>
      stepPc (moveBase true rd (read s.mem (readReg s rn)) t) := rfl

theorem swap_checks_pass {i : Instr} {c : Cond} {rn rd rm : RegIdx} {s : State}
    (form : i = .swp c rn rd rm ∨ i = .swpb c rn rd rm) (completed : s.armCompletion = true)
    (legal : ¬(rd = 15 ∨ rn = 15 ∨ rm = 15 ∨ rn = rd ∨ rn = rm)) : ∀ c ∈ wordChecks i s, c.1 = false := by
  have noFault : swapFault rn rd rm = false := Bool.eq_false_iff.2 (mt swapFault_iff.1 legal)
  obtain rfl | rfl := form
  case inl | inr => exact List.forall_mem_append.2 ⟨ownChecks_pass (.inl completed), by simp [formChecks, noFault]⟩

end Sys2Proof.Machine

open Sys2Proof Sys2Proof.Machine

/-- Settles O38: a legal load ends as `finishLoad` does with the value of its row. -/
theorem loadResults : Obligations.LoadResults := by
  intro i s x data h ready written implemented legal
  have runs := (exec_of_transferSpec (.inl ⟨data, h⟩) ready written implemented legal).trans
    (core_of_loadSpec ((loadSpec_clearHazard i s).trans h))
  refine ⟨fun notPc => ?register, fun isPc aligned => ?jumps, fun isPc odd => ?faults⟩
  case register =>
    obtain ⟨t, answers, result⟩ := finishLoad_loads notPc legal.base
    exact ⟨t, runs.trans answers, result⟩
  case jumps =>
    rw [isPc] at runs
    obtain ⟨t, answers, result⟩ := finishLoad_jumps aligned legal.base
    exact ⟨t, runs.trans answers, result⟩
  case faults =>
    rw [isPc] at runs
    exact runs.trans (finishLoad_misaligned odd)

/-- Settles O39: a legal store clear of the prefetched words writes the bytes of its register. -/
theorem storeResults : Obligations.StoreResults := by
  intro i s x a n h ready written legal clear
  obtain ⟨bs, bytes, small, effect⟩ := core_of_storeSpec ((storeSpec_clearHazard i s).trans h)
  have covers : Covers (bytesFrom a n) [(a, bs)] := bytes.1 ▸ covers_single a bs
  obtain ⟨t, answers, stores⟩ := store_stores covers clear legal.base x.ix.moved
  have runs := exec_of_transferSpec (.inr ⟨a, n, h⟩) ready written (implemented_of_storeSpec h) legal
  refine ⟨t, runs.trans (effect.trans answers), fun k inside => ?bytes, stores.base, stores.pc, stores.plain.1, stores.kept,
    stores.plain.2⟩
  case bytes =>
    rw [stores.mem]
    exact readByte_storeAll_single bytes (by omega) _ _ inside

/-- Settles O43: the store writes the old Rm, and Rd holds what memory held before it. -/
theorem swapResults : Obligations.SwapResults := by
  intro c rn rd rm s completed rdNotPc rnNotPc rmNotPc rnRd rnRm
  have legal : ¬(rd = 15 ∨ rn = 15 ∨ rm = 15 ∨ rn = rd ∨ rn = rm) := by simp [*]
  refine ⟨fun ready written clear => ?word, fun ready written clear => ?byte⟩
  case word =>
    have runs := exec_of_core ready (swap_checks_pass (.inl rfl) completed legal) written rfl
    obtain ⟨t, answers, stores⟩ := store_stores (moves := true) (covers_single _ (wordBytes (readReg s rm))) clear
      (fun _ => rdNotPc) (readRotateWord s.mem (readReg s rn))
    refine ⟨t, runs.trans answers, stores.base rfl, fun k inside => ?_, stores.pc, stores.plain.1, stores.kept, stores.plain.2⟩
    rw [stores.mem]
    exact readByte_storeAll_single (bytesOf_wordBytes _) (by decide) _ _ inside
  case byte =>
    have runs := exec_of_core ready (swap_checks_pass (.inr rfl) completed legal) written rfl
    rw [← bytesFrom_one] at clear
    obtain ⟨t, answers, stores⟩ := store_stores (moves := true) (covers_single _ (lowByte (readReg s rm))) clear
      (fun _ => rdNotPc) (readZeroByte s.mem (readReg s rn))
    refine ⟨t, runs.trans answers, stores.base rfl, ?_, stores.pc, stores.plain.1, bytesFrom_one (readReg s rn) ▸ stores.kept,
      stores.plain.2⟩
    have written := readByte_storeAll_single (bytesOf_lowByte (readReg s rm)) (by decide) s.mem (readReg s rn) Nat.zero_lt_one
    rwa [BitVec.add_zero, ← stores.mem] at written

end

section
/-! PROOFS. The loads of a block transfer (48_block R850 to R857, R880): what each register of the list holds after them,
where R15 is loaded from, and how an LDM ends. -/

namespace Sys2Proof.Machine

/-! ## The list -/

theorem nodup_listRegs (list : BitVec 16) : (listRegs list).Nodup :=
  (pairwise_listRegs list).imp fun {p q} below (same : p = q) => Nat.lt_irrefl _ (same ▸ below)

/-- R15 is the last of any list that has it (R850). -/
theorem getElem?_listRegs_last {list : BitVec 16} (pc : 15 ∈ listRegs list) :
    (listRegs list)[(listRegs list).length - 1]? = some 15 := by
  obtain ⟨k, inside, found⟩ := List.getElem_of_mem pc
  have isLast : k = (listRegs list).length - 1 := by
    by_contra notLast
    have above := List.pairwise_iff_getElem.1 (pairwise_listRegs list) k ((listRegs list).length - 1) inside (by omega)
      (by omega)
    have bound := ((listRegs list)[(listRegs list).length - 1]'(by omega)).isLt
    rw [found, show (15 : RegIdx).val = 15 from rfl] at above
    omega
  rw [← isLast, List.getElem?_eq_getElem inside, found]

/-! ## Registers loaded one after another (R851, R852) -/

section
variable {user : Bool} {values : List (RegIdx × Word)} {r : RegIdx} {s t : State}

/-- The view that loads write in. -/
def loadMode (user : Bool) (s : State) : Mode := if user then .usr else s.cpsr.mode

theorem readRegIn_loadRegs_other (outside : r ∉ values.map Prod.fst) :
    readRegIn (loadMode user s) (loadRegs user values s) r = readRegIn (loadMode user s) s r := by
  induction values generalizing s with
  | nil => rfl
  | cons rv rest ih =>
    obtain ⟨notFirst, notRest⟩ := not_or.1 (mt List.mem_cons.2 outside)
    have sameMode : loadMode user (writeRegIn (loadMode user s) rv.1 rv.2 s) = loadMode user s := by simp [loadMode]
    rw [loadRegs_cons]
    have step := ih (s := writeRegIn (loadMode user s) rv.1 rv.2 s) notRest
    rw [sameMode, readRegIn_writeRegIn, if_neg fun same => notFirst (view_inj _ _ _ same.1).symm] at step
    exact step

/-- Each register holds the value beside it, no register being loaded twice. -/
theorem readRegIn_loadRegs_loaded {v : Word} (nodup : (values.map Prod.fst).Nodup) (loaded : (r, v) ∈ values)
    (notPc : r ≠ 15) : readRegIn (loadMode user s) (loadRegs user values s) r = v := by
  induction values generalizing s with
  | nil => cases loaded
  | cons rv rest ih =>
    obtain ⟨notAgain, nodupRest⟩ := List.nodup_cons.1 nodup
    have sameMode : loadMode user (writeRegIn (loadMode user s) rv.1 rv.2 s) = loadMode user s := by simp [loadMode]
    rw [loadRegs_cons]
    obtain rfl | later := List.mem_cons.1 loaded
    · have step := readRegIn_loadRegs_other (user := user) (s := writeRegIn (loadMode user s) r v s) notAgain
      rw [sameMode, readRegIn_writeRegIn, if_pos ⟨rfl, notPc⟩] at step
      exact step
    · have step := ih (s := writeRegIn (loadMode user s) rv.1 rv.2 s) nodupRest later
      rw [sameMode] at step
      exact step

theorem Kept.loadRegs {regs : List PhysReg} {bytes : List Word} (h : Kept regs bytes s t)
    (named : ∀ r ∈ values.map Prod.fst, ∀ p, view (loadMode user t) r = some p → p ∈ regs) :
    Kept regs bytes s (loadRegs user values t) := by
  induction values generalizing t with
  | nil => exact h
  | cons rv rest ih =>
    rw [loadRegs_cons]
    refine ih (h.writeRegIn (named rv.1 List.mem_cons_self) rv.2) fun r member p behind => ?_
    exact named r (List.mem_cons_of_mem _ member) p (by simpa [loadMode] using behind)

end

/-! ## The loads of a block (R851, R853) -/

section
variable {user pre up wback : Bool} {rn : RegIdx} {list : BitVec 16} {s : State}

theorem mem_ldmValues {start : Word} {m : Memory} {r : RegIdx} {v : Word} :
    (r, v) ∈ ldmValues list start m ↔ ∃ k, (listRegs list)[k]? = some r ∧ readWord m (blockSlot start k) = v := by
  simp only [ldmValues, blockSlots, List.mem_map, List.mem_mapIdx, Prod.mk.injEq, List.getElem?_eq_some_iff]
  constructor
  · rintro ⟨_, ⟨k, inside, rfl⟩, rfl, rfl⟩
    exact ⟨k, ⟨inside, rfl⟩, rfl⟩
  · rintro ⟨k, ⟨inside, rfl⟩, rfl⟩
    exact ⟨_, ⟨k, inside, rfl⟩, rfl, rfl⟩

theorem ldmWriteback_eq (wback : Bool) (rn : RegIdx) (list : BitVec 16) (final : Word) (s : State) :
    ldmWriteback wback rn list final s = moveBase (wback && !(listRegs list).contains rn) rn final s := rfl

theorem loadMode_ldmWriteback (final : Word) :
    loadMode user (ldmWriteback wback rn list final s) = loadMode user s := by
  rw [loadMode, ldmWriteback_cpsr, loadMode]

/-- The k-th register of the list holds the word at slot k. -/
theorem readRegIn_afterLoads {k : Nat} {r : RegIdx} (listed : (listRegs list)[k]? = some r) (notPc : r ≠ 15) :
    readRegIn (loadMode user s) (afterLoads user pre up wback rn list s) r =
      readWord s.mem (blockSlot (blockAddress pre up rn list s).start k) := by
  have nodup : ((ldmValues list (blockAddress pre up rn list s).start s.mem).map Prod.fst).Nodup :=
    map_fst_ldmValues .. ▸ nodup_listRegs list
  have loaded := readRegIn_loadRegs_loaded (user := user)
    (s := ldmWriteback wback rn list (blockAddress pre up rn list s).final s) nodup
    (mem_ldmValues.2 ⟨k, listed, rfl⟩) notPc
  rwa [loadMode_ldmWriteback] at loaded

/-- A base that moves and is not loaded holds its final value (R853). -/
theorem readRegIn_afterLoads_base (moves : wback = true) (notListed : rn ∉ listRegs list) (notPc : rn ≠ 15) :
    readRegIn s.cpsr.mode (afterLoads false pre up wback rn list s) rn = (blockAddress pre up rn list s).final := by
  have outside : rn ∉ (ldmValues list (blockAddress pre up rn list s).start s.mem).map Prod.fst :=
    map_fst_ldmValues .. ▸ notListed
  have kept := readRegIn_loadRegs_other (user := false)
    (s := ldmWriteback wback rn list (blockAddress pre up rn list s).final s) outside
  rw [loadMode_ldmWriteback] at kept
  have moved := readReg_moveBase (moves := wback && !(listRegs list).contains rn) (by simp [moves, notListed]) notPc
    (blockAddress pre up rn list s).final s
  rw [readReg, moveBase_cpsr] at moved
  exact kept.trans moved

/-- The registers of the list, and the base if W = 1, are all that the loads write. -/
theorem kept_afterLoads (s : State) :
    Kept (physOf s (if wback then rn :: listRegs list else listRegs list)) [] s
      (afterLoads false pre up wback rn list (clearHazard s)) := by
  refine Kept.loadRegs ?base fun r member p behind => mem_physOf.2 ⟨r, ?listed, ?named⟩
  case base =>
    rw [ldmWriteback_eq]
    refine (kept_clearHazard _ [] s).moveBase rfl (fun moves => ?_) _
    rw [if_pos (Bool.and_eq_true_iff.1 moves).1]
    exact List.mem_cons_self
  case listed =>
    rw [map_fst_ldmValues] at member
    split
    next => exact List.mem_cons_of_mem _ member
    next => exact member
  case named => rwa [loadMode_ldmWriteback] at behind

/-- Loads into the User bank write nothing else, the base included. -/
theorem kept_userLoads (s : State) :
    Kept ((listRegs list).filterMap (view .usr)) [] s (afterLoads true pre up false rn list (clearHazard s)) :=
  (kept_clearHazard _ [] s).loadRegs fun r member _ behind =>
    List.mem_filterMap.2 ⟨r, map_fst_ldmValues .. ▸ member, behind⟩

/-- R15 is loaded from the last slot. -/
theorem ldmPc_eq_some (pc : 15 ∈ listRegs list) :
    ldmPc pre up rn list s =
      some (readWord s.mem (blockSlot (blockAddress pre up rn list s).start ((listRegs list).length - 1))) := by
  have last := mem_ldmValues (start := (blockAddress pre up rn list s).start) (m := s.mem) |>.2
    ⟨_, getElem?_listRegs_last pc, rfl⟩
  obtain ⟨v, loaded⟩ := Option.isSome_iff_exists.1 ((isSome_ldmPc pre up rn list s).2 pc)
  rw [loaded]
  obtain ⟨⟨r, _⟩, found, rfl⟩ := Option.map_eq_some_iff.1 loaded
  have isPc := List.find?_some found
  obtain rfl : r = 15 := beq_iff_eq.1 isPc
  obtain ⟨k, listed, rfl⟩ := mem_ldmValues.1 (List.mem_of_find?_eq_some found)
  have inside : k < (listRegs list).length := (List.getElem?_eq_some_iff.1 listed).1
  rw [(List.getElem?_inj inside (nodup_listRegs list)).1 (listed.trans (getElem?_listRegs_last pc).symm)]

theorem ldmPc_eq_none (noPc : 15 ∉ listRegs list) : ldmPc pre up rn list s = none :=
  Option.not_isSome_iff_eq_none.1 (mt (isSome_ldmPc pre up rn list s).1 noPc)

end

/-! ## What an LDM leaves before the pc is written -/

/-- After the loads of a block: the registers, the base, and all that is kept. -/
structure Loads (b : BlockSpec) (s u : State) : Prop where
  loaded : ∀ k r, (listRegs b.list)[k]? = some r → r ≠ 15 →
    readRegIn s.cpsr.mode u r = readWord s.mem (blockSlot (b.start s) k)
  base : b.wback = true → b.list.getLsbD b.rn.val = false → readRegIn s.cpsr.mode u b.rn = b.final s
  pc : u.pc = s.pc
  cpsr : u.cpsr = s.cpsr
  hazard : u.ldmUserHazard = false
  kept : Kept (physOf s (if b.wback then b.rn :: listRegs b.list else listRegs b.list)) [] s u

/-- The loads of a block, from the state that the guard leaves. -/
def BlockSpec.loads (b : BlockSpec) (s : State) : State :=
  afterLoads false b.pre b.up b.wback b.rn b.list (clearHazard s)

theorem BlockSpec.loads_spec {b : BlockSpec} (notPc : b.rn ≠ 15) (s : State) : Loads b s (b.loads s) := by
  obtain ⟨pc, cpsr, -, -, hazard, -, -⟩ :=
    registersOnly_afterLoads false b.pre b.up b.wback b.rn b.list (clearHazard s)
  refine ⟨fun k r listed notPc => ?loaded, fun moves notListed => ?base, pc, cpsr, hazard, kept_afterLoads s⟩
  case loaded => exact readRegIn_afterLoads (s := clearHazard s) (user := false) listed notPc
  case base =>
    refine readRegIn_afterLoads_base (s := clearHazard s) moves (fun member => ?_) notPc
    by_cases empty : b.list = 0#16
    · rw [empty] at member
      exact notPc (List.mem_singleton.1 member)
    · exact Bool.false_ne_true (notListed.symm.trans ((mem_listRegs empty _).1 member))

section
variable {b : BlockSpec} {s u : State}

/-- A write of the pc keeps what was loaded. -/
theorem Loads.setPc (h : Loads b s u) (v : Word) (notPc : b.rn ≠ 15) :
    let t := { u with pc := v }
    (∀ k r, (listRegs b.list)[k]? = some r → r ≠ 15 → readReg t r = readWord s.mem (blockSlot (b.start s) k)) ∧
      (b.wback = true → b.list.getLsbD b.rn.val = false → readReg t b.rn = b.final s) ∧ t.cpsr.flags = s.cpsr.flags ∧
      Kept (physOf s (if b.wback then b.rn :: listRegs b.list else listRegs b.list)) [] s t ∧ Plain s t := by
  refine ⟨fun k r listed other => ?loaded, fun moves notListed => ?base, congrArg Cpsr.flags h.cpsr, h.kept.setPc v,
    plain_of_cpsr (f := s.cpsr.flags) h.cpsr h.hazard⟩
  case loaded =>
    rw [readReg_setPc v u other, readReg, h.cpsr]
    exact h.loaded k r listed other
  case base =>
    rw [readReg_setPc v u notPc, readReg, h.cpsr]
    exact h.base moves notListed

end

/-! ## LDM (R870 to R873) -/

section
variable {i : Instr} {s : State} {b : BlockSpec}

theorem core_of_ldmSpec (h : ldmSpec i = some b) (s : State) :
    core i s = finishLdm b.pre b.up b.wback b.rn b.list s := by
  cases i
  case ldmia | ldmib | ldmda | ldmdb =>
    cases h
    rfl
  all_goals cases h

theorem wordChecks_of_blockSpec (h : ldmSpec i = some b ∨ stmSpec i = some b) (s : State) :
    wordChecks i s = [baseCheck b.rn] := by
  obtain h | h := h
  case inl =>
    cases i
    case ldmia | ldmib | ldmda | ldmdb =>
      cases h
      rfl
    all_goals cases h
  case inr =>
    cases i
    case stmia | stmib | stmda | stmdb =>
      cases h
      rfl
    all_goals cases h

theorem returnsWithPc_of_blockSpec (h : ldmSpec i = some b ∨ stmSpec i = some b) : returnsWithPc i = true := by
  cases i
  case ldmRet => obtain h | h := h <;> cases h
  all_goals rfl

theorem exec_of_blockSpec (h : ldmSpec i = some b ∨ stmSpec i = some b) (ready : Ready i s) (written : Written i s)
    (notPc : b.rn ≠ 15) : exec i s = core i (clearHazard s) := by
  refine exec_of_core ready ?pass written (returnsWithPc_of_blockSpec h)
  rw [wordChecks_of_blockSpec h]
  simp [baseCheck, notPc]

theorem finishLdm_pc (pc : 15 ∈ listRegs b.list) :
    finishLdm b.pre b.up b.wback b.rn b.list (clearHazard s) =
      writePc (readWord s.mem (blockSlot (b.start s) ((listRegs b.list).length - 1))) (b.loads s) := by
  rw [finishLdm, ldmPc_eq_some pc]
  rfl

theorem finishLdm_step (noPc : 15 ∉ listRegs b.list) :
    finishLdm b.pre b.up b.wback b.rn b.list (clearHazard s) = .next (stepPc (b.loads s)) := by
  rw [finishLdm, ldmPc_eq_none noPc]
  rfl

/-! ## The LDM exception return (R857, R880) -/

theorem wordChecks_of_ldmReturnSpec (h : ldmReturnSpec i = some b) (s : State) :
    wordChecks i s = ldmRetChecks b.rn s := by
  cases i
  case ldmRet =>
    cases h
    rfl
  case ldmUser =>
    obtain ⟨empty, spec⟩ := Option.ite_none_right_eq_some.1 h
    cases spec
    exact if_pos empty
  all_goals cases h

theorem core_of_ldmReturnSpec (h : ldmReturnSpec i = some b) (s : State) :
    core i s = ldmRetCore b.pre b.up b.wback b.rn b.list s := by
  cases i
  case ldmRet =>
    cases h
    rfl
  case ldmUser =>
    obtain ⟨empty, spec⟩ := Option.ite_none_right_eq_some.1 h
    cases spec
    exact if_pos empty
  all_goals cases h

theorem returnsWithPc_of_ldmReturnSpec (h : ldmReturnSpec i = some b)
    (pc : b.list = 0#16 ∨ b.list.getLsbD 15 = true) : returnsWithPc i = true := by
  cases i
  case ldmRet =>
    cases h
    simpa [returnsWithPc] using pc
  all_goals rfl

/-- A completed return whose mode has a saved status resumes from it behind the loads. -/
theorem exec_of_ldmReturnSpec {p : Spsr} (h : ldmReturnSpec i = some b) (pc : b.list = 0#16 ∨ b.list.getLsbD 15 = true)
    (ready : Ready i s) (written : Written i s) (completed : s.armCompletion = true) (notPc : b.rn ≠ 15)
    (saved : spsrOf s.cpsr.mode s = some p) :
    exec i s = resumeAt (readWord s.mem (blockSlot (b.start s) ((listRegs b.list).length - 1))) p (b.loads s) := by
  have hasSpsr : s.cpsr.mode.hasSpsr = true := hasSpsr_of_spsrCheck (spsrCheck_pass saved)
  have pass : ∀ c ∈ wordChecks i s, c.1 = false := by
    rw [wordChecks_of_ldmReturnSpec h]
    simp [ldmRetChecks, baseCheck, completed, hasSpsr, notPc]
  rw [exec_of_core ready pass written (returnsWithPc_of_ldmReturnSpec h pc), core_of_ldmReturnSpec h, ldmRetCore,
    ldmPc_eq_some (pc_mem_listRegs.2 pc)]
  have savedThere : spsrOf s.cpsr.mode (clearHazard s) = some p := (spsrOf_clearHazard _ s).trans saved
  exact congrArg (resumeAt _ · _) (psrParts_spsr savedThere)

end

/-- Registers read the same in states that hold the same. -/
theorem readRegIn_congr {m : Mode} {r : RegIdx} {s t : State} (same : t.regs = s.regs) (notPc : r ≠ 15) :
    readRegIn m t r = readRegIn m s r := by
  obtain ⟨p, named⟩ := view_isSome m notPc
  rw [readRegIn_of_view named, readRegIn_of_view named, same]

end Sys2Proof.Machine

open Sys2Proof Sys2Proof.Machine

/-- Settles O46: without R15 in the list the instruction steps after the loads. -/
theorem ldmResults : Obligations.LdmResults := by
  intro i s b h ready written notPc nonempty noPc
  have notListed : 15 ∉ listRegs b.list := fun member =>
    Bool.false_ne_true (noPc.symm.trans ((pc_mem_listRegs.1 member).resolve_left nonempty))
  have runs := (exec_of_blockSpec (.inl h) ready written notPc).trans
    ((core_of_ldmSpec h _).trans (finishLdm_step notListed))
  have loads := BlockSpec.loads_spec notPc s
  obtain ⟨loaded, base, flags, kept, plain⟩ := loads.setPc ((b.loads s).pc + 4#32) notPc
  have nextPc : (b.loads s).pc + 4#32 = s.pc + 4#32 := congrArg (· + 4#32) loads.pc
  refine ⟨_, runs, fun k r listed => loaded k r listed ?_, base, nextPc, flags, kept, plain⟩
  rintro rfl
  exact notListed (List.mem_of_getElem? listed)

/-- Settles O47: the last slot's word goes to the pc after the loads. -/
theorem ldmToPc : Obligations.LdmToPc := by
  intro i s b h ready written notPc pc
  have runs := (exec_of_blockSpec (.inl h) ready written notPc).trans
    ((core_of_ldmSpec h _).trans (finishLdm_pc (pc_mem_listRegs.2 pc)))
  refine ⟨fun aligned => ⟨_, runs.trans (writePc_aligned _ (misaligned_eq_false.2 aligned)), rfl, ?loads⟩,
    fun odd => runs.trans (writePc_misaligned _ (bne_iff_ne.2 odd))⟩
  case loads => exact (BlockSpec.loads_spec notPc s).setPc _ notPc

/-- Settles O50: behind the checks of R858 and R880 the form loads, and resumes from the SPSR at the last slot's word. -/
theorem ldmReturn : Obligations.LdmReturn := by
  intro i s b h pc ready
  refine ⟨fun normative => ldm_return_not_in_source h ready normative, fun completed noSpsr => ?noSpsr,
    fun completed notPc written p saved => ?returns⟩
  case noSpsr =>
    refine exec_of_wordFault ready (returnsWithPc_of_ldmReturnSpec h pc) fun k => ?_
    simp [wordChecks_of_ldmReturnSpec h, ldmRetChecks, checked_cons, completed, (hasSpsr_eq_false_iff s).2 noSpsr]
  case returns =>
    have runs := exec_of_ldmReturnSpec h pc ready written completed notPc saved
    have loads := BlockSpec.loads_spec notPc s
    refine ⟨fun noMode => runs.trans (resumeAt_noMode noMode),
      fun isMode arm odd => runs.trans (resumeAt_misaligned isMode arm odd), fun isMode word => ?resumes⟩
    obtain ⟨t, answers, returns, sameRegs⟩ := resumeAt_returns isMode word loads.kept loads.hazard
    exact ⟨t, runs.trans answers, returns,
      fun k r listed other => (readRegIn_congr sameRegs other).trans (loads.loaded k r listed other),
      fun moves notListed => (readRegIn_congr sameRegs notPc).trans (loads.base moves notListed)⟩

end

section
/-! PROOFS. The stores of a block transfer (48_block R852, R854, R859), the user-bank forms (R856, R878, R879), and the
stores that meet the prefetched words (70_reset R1120). -/

namespace Sys2Proof.Machine

/-! ## The slots of a block are apart (R851) -/

theorem length_listRegs_le (list : BitVec 16) : (listRegs list).length ≤ 16 := by
  rw [listRegs]
  split
  next => decide
  next => exact (List.length_filter_le ..).trans (by simp)

theorem alignWord_eq_shift (a : Word) : alignWord a = a >>> 2 <<< 2 := by
  have mask : ∀ k : Fin 32, (~~~3#32).getLsbD k = decide (2 ≤ k.val) := by decide
  apply BitVec.eq_of_getLsbD_eq
  intro k inside
  rw [alignWord, BitVec.getLsbD_and, mask ⟨k, inside⟩, BitVec.getLsbD_shiftLeft, BitVec.getLsbD_ushiftRight]
  by_cases low : k < 2
  · simp [low, Nat.not_le.2 low]
  · simp [low, inside, Nat.not_lt.1 low]

theorem toNat_alignWord (a : Word) : (alignWord a).toNat = a.toNat / 4 * 4 := by
  rw [alignWord_eq_shift, BitVec.toNat_shiftLeft, BitVec.toNat_ushiftRight, Nat.shiftRight_eq_div_pow, Nat.shiftLeft_eq]
  omega

/-- Bytes of two slots of a block meet only in one slot. -/
theorem slot_eq_of_byte_eq {start : Word} {k l x y : Nat} (hk : k < 16) (hl : l < 16) (hx : x < 4) (hy : y < 4)
    (same : blockSlot start k + BitVec.ofNat 32 x = blockSlot start l + BitVec.ofNat 32 y) : k = l := by
  have bytes := congrArg BitVec.toNat same
  simp only [blockSlot, BitVec.toNat_add, toNat_alignWord, BitVec.toNat_ofNat] at bytes
  omega

/-! ## Many writes: each leaves its bytes where no later one writes -/

theorem readByte_storeAll_inside {ws : List (Word × List Byte)} {w : Word × List Byte} {k : Nat}
    (apart : ws.Pairwise fun v w => ∀ y ∈ bytesFrom v.1 v.2.length, y ∉ bytesFrom w.1 w.2.length) (member : w ∈ ws)
    (small : w.2.length ≤ 2 ^ 32) (inside : k < w.2.length) (m : Memory) :
    readByte (storeAll m ws) (w.1 + BitVec.ofNat 32 k) = w.2[k] := by
  induction ws generalizing m with
  | nil => cases member
  | cons v rest ih =>
    obtain ⟨first, later⟩ := List.pairwise_cons.1 apart
    obtain rfl | member := List.mem_cons.1 member
    · have written : w.1 + BitVec.ofNat 32 k ∈ bytesFrom w.1 w.2.length := mem_bytesFrom.2 ⟨k, inside, rfl⟩
      exact (readByte_storeAll_outside (writeBytes m w.1 w.2) _ rest fun w' member => first w' member _ written).trans
        (readByte_writeBytes m w.1 w.2 small k inside)
    · exact ih later member (writeBytes m v.1 v.2)

/-! ## The writes of an STM (R859) -/

section
variable {user pre up wback : Bool} {rn : RegIdx} {list : BitVec 16} {ba : BlockAddress} {s : State}

theorem mem_stmWrites {w : Word × List Byte} :
    w ∈ stmWrites user wback rn list ba s ↔ ∃ k r, (listRegs list)[k]? = some r ∧
      w = (blockSlot ba.start k, wordBytes (stmValue user wback rn ba.final s k r)) := by
  simp only [stmWrites, List.mem_mapIdx, List.getElem?_eq_some_iff]
  constructor
  · rintro ⟨k, inside, rfl⟩
    exact ⟨k, _, ⟨inside, rfl⟩, rfl⟩
  · rintro ⟨k, r, ⟨inside, rfl⟩, rfl⟩
    exact ⟨k, inside, rfl⟩

theorem covers_stmWrites : Covers (slotBytes ba.start list) (stmWrites user wback rn list ba s) := by
  intro y
  simp only [slotBytes, List.mem_flatten, List.mem_map, List.mem_range, mem_stmWrites]
  constructor
  · rintro ⟨_, ⟨k, inside, rfl⟩, member⟩
    exact ⟨_, ⟨k, _, List.getElem?_eq_getElem inside, rfl⟩, member⟩
  · rintro ⟨_, ⟨k, r, listed, rfl⟩, member⟩
    exact ⟨_, ⟨k, (List.getElem?_eq_some_iff.1 listed).1, rfl⟩, member⟩

theorem stmWrites_apart : (stmWrites user wback rn list ba s).Pairwise
    fun v w => ∀ y ∈ bytesFrom v.1 v.2.length, y ∉ bytesFrom w.1 w.2.length := by
  have bound := length_listRegs_le list
  refine List.pairwise_iff_getElem.2 fun k l hk hl less y inK inL => ?_
  simp only [stmWrites, List.length_mapIdx] at hk hl
  simp only [stmWrites, List.getElem_mapIdx, mem_bytesFrom] at inK inL
  obtain ⟨x, hx, rfl⟩ := inK
  obtain ⟨z, hz, same⟩ := inL
  have := slot_eq_of_byte_eq (hk.trans_le bound) (hl.trans_le bound) hx hz same
  omega

/-- Slot k holds what its register stores. -/
theorem readByte_stmWrites {k j : Nat} {r : RegIdx} (listed : (listRegs list)[k]? = some r) (inside : j < 4) (m : Memory) :
    readByte (storeAll m (stmWrites user wback rn list ba s)) (blockSlot ba.start k + BitVec.ofNat 32 j) =
      (stmValue user wback rn ba.final s k r).extractLsb' (8 * j) 8 :=
  have small : 4 ≤ 2 ^ 32 := by decide
  (readByte_storeAll_inside stmWrites_apart (mem_stmWrites.2 ⟨k, r, listed, rfl⟩) small inside m).trans
    (getElem_wordBytes _ inside)

/-- An STM is a store whose base may move. -/
theorem finishStm_store (s : State) :
    finishStm user pre up wback rn list (clearHazard s) =
      store (stmWrites user wback rn list (blockAddress pre up rn list s) (clearHazard s)) (clearHazard s) fun t =>
        stepPc (moveBase wback rn (blockAddress pre up rn list s).final t) := rfl

theorem finishStm_faults (s : State)
    (hit : ∃ y ∈ slotBytes (blockAddress pre up rn list s).start list, (y - (s.pc + 4#32)).toNat < 8) :
    ∃ y ∈ slotBytes (blockAddress pre up rn list s).start list, (y - (s.pc + 4#32)).toNat < 8 ∧
      finishStm user pre up wback rn list (clearHazard s) = .fault (.selfModifyHazard y) := by
  rw [finishStm_store]
  exact store_faults covers_stmWrites hit

/-- Clear of the prefetched words, slot k holds what its register stores. -/
theorem finishStm_stores (s : State) (clear : ClearOfPrefetch s.pc (slotBytes (blockAddress pre up rn list s).start list))
    (notPc : wback = true → rn ≠ 15) :
    ∃ t, finishStm user pre up wback rn list (clearHazard s) = .next t ∧
      Stores (stmWrites user wback rn list (blockAddress pre up rn list s) (clearHazard s))
        (slotBytes (blockAddress pre up rn list s).start list) wback rn (blockAddress pre up rn list s).final s t ∧
      ∀ k r, (listRegs list)[k]? = some r → ∀ j < 4,
        readByte t.mem (blockSlot (blockAddress pre up rn list s).start k + BitVec.ofNat 32 j) =
          (stmValue user wback rn (blockAddress pre up rn list s).final s k r).extractLsb' (8 * j) 8 := by
  rw [finishStm_store]
  obtain ⟨t, answers, stores⟩ := store_stores covers_stmWrites clear notPc (blockAddress pre up rn list s).final
  refine ⟨t, answers, stores, fun k r listed j inside => ?_⟩
  rw [stores.mem]
  exact readByte_stmWrites listed inside s.mem

/-- What R15 and the registers store, the base in its place apart. -/
theorem stmValue_eq (final : Word) (k : Nat) (r : RegIdx) :
    stmValue user wback rn final s k r =
      if r = 15 then s.pc + 12#32 else if r = rn ∧ wback = true ∧ 0 < k then final
        else if user then readUser s r else readReg s r := by
  simp [stmValue, and_assoc]

end

section
variable {i : Instr} {b : BlockSpec}

theorem core_of_stmSpec (h : stmSpec i = some b) (s : State) :
    core i s = finishStm false b.pre b.up b.wback b.rn b.list s := by
  cases i
  case stmia | stmib | stmda | stmdb =>
    cases h
    rfl
  all_goals cases h

end

/-! ## The user-bank forms (R856) -/

section
variable {c : Cond} {pre up : Bool} {rn : RegIdx} {list : BitVec 16} {s : State}

theorem userBankChecks_pass (notPc : rn ≠ 15) (hasSpsr : spsrOf s.cpsr.mode s ≠ none) :
    ∀ c ∈ userBankChecks false rn s, c.1 = false := by
  obtain ⟨p, saved⟩ := Option.ne_none_iff_exists'.1 hasSpsr
  simp [userBankChecks, baseCheck, notPc, hasSpsr_of_spsrCheck (spsrCheck_pass saved)]

theorem exec_ldmUser (ready : Ready (.ldmUser c pre up false rn list) s) (written : Written (.ldmUser c pre up false rn list) s)
    (notPc : rn ≠ 15) (hasSpsr : spsrOf s.cpsr.mode s ≠ none) (nonempty : list ≠ 0#16) :
    exec (.ldmUser c pre up false rn list) s = finishLdmUser pre up rn list (clearHazard s) := by
  rw [exec_of_core ready ?pass written rfl, core, if_neg nonempty]
  case pass =>
    rw [wordChecks, formChecks, if_neg nonempty]
    exact userBankChecks_pass notPc hasSpsr

theorem exec_stmUser (ready : Ready (.stmUser c pre up false rn list) s) (written : Written (.stmUser c pre up false rn list) s)
    (notPc : rn ≠ 15) (hasSpsr : spsrOf s.cpsr.mode s ≠ none) :
    exec (.stmUser c pre up false rn list) s = finishStm true pre up false rn list (clearHazard s) :=
  exec_of_core ready (userBankChecks_pass notPc hasSpsr) written rfl

end

end Sys2Proof.Machine

open Sys2Proof Sys2Proof.Machine

/-- Settles O42: each of these is a store of the bytes named, behind the checks of its word. -/
theorem storeIntoPrefetchedWords : Obligations.StoreIntoPrefetchedWords := by
  intro i s ready written
  refine ⟨fun x a n h legal hit => ?transfer, fun b h notPc hit => ?block,
    fun c pre up rn list form notPc hasSpsr hit => ?userBank,
    fun c rn rd rm completed rdNotPc rnNotPc rmNotPc rnRd rnRm => ⟨fun form hit => ?word, fun form hit => ?byte⟩⟩
  case transfer =>
    obtain ⟨bs, bytes, -, effect⟩ := core_of_storeSpec ((storeSpec_clearHazard i s).trans h)
    have runs := exec_of_transferSpec (.inr ⟨a, n, h⟩) ready written (implemented_of_storeSpec h) legal
    have covers : Covers (bytesFrom a n) [(a, bs)] := bytes.1 ▸ covers_single a bs
    rw [runs, effect]
    exact store_faults covers hit
  case block =>
    rw [exec_of_blockSpec (.inr h) ready written notPc, core_of_stmSpec h]
    exact finishStm_faults s hit
  case userBank =>
    subst form
    rw [exec_stmUser ready written notPc hasSpsr]
    exact finishStm_faults s hit
  all_goals have legal : ¬(rd = 15 ∨ rn = 15 ∨ rm = 15 ∨ rn = rd ∨ rn = rm) := by simp [*]
  case word =>
    subst form
    rw [exec_of_core ready (swap_checks_pass (.inl rfl) completed legal) written rfl, Machine.core, swapCore_eq]
    exact store_faults (covers_single _ (wordBytes (readReg s rm))) hit
  case byte =>
    subst form
    rw [exec_of_core ready (swap_checks_pass (.inr rfl) completed legal) written rfl, Machine.core, swapCore_eq]
    exact store_faults (covers_single _ (lowByte (readReg s rm))) hit

/-- Settles O48: the slots are apart, so that each holds what its register stores. -/
theorem stmResults : Obligations.StmResults := by
  intro i s b h ready written notPc clear
  have runs := (exec_of_blockSpec (.inr h) ready written notPc).trans (core_of_stmSpec h _)
  obtain ⟨t, answers, stores, slots⟩ := finishStm_stores (user := false) s clear (fun _ => notPc)
  refine ⟨t, runs.trans answers, fun k r listed j inside => ?slot, stores.base, stores.pc, stores.plain.1, stores.kept,
    stores.plain.2⟩
  case slot =>
    have stored := slots k r listed j inside
    rw [stmValue_eq] at stored
    exact stored

/-- Settles O49: the loads write the User view, the stores read it, and the base is read in the current one. -/
theorem userBankTransfers : Obligations.UserBankTransfers := by
  intro c pre up rn list s notPc hasSpsr
  refine ⟨fun ready written nonempty noPc => ?loads, fun ready written clear => ?stores⟩
  case loads =>
    let u := afterLoads true pre up false rn list (clearHazard s)
    obtain ⟨pc, cpsr, -⟩ : RegistersOnly (clearHazard s) u := registersOnly_afterLoads ..
    refine ⟨_, exec_ldmUser ready written notPc hasSpsr nonempty, fun k r listed => ?loaded, rfl, congrArg (· + 4#32) pc, cpsr,
      ?kept⟩
    case loaded =>
      have other : r ≠ 15 := by
        rintro rfl
        exact Bool.false_ne_true (noPc.symm.trans ((mem_listRegs nonempty _).1 (List.mem_of_getElem? listed)))
      have loaded : readRegIn .usr u r = _ := readRegIn_afterLoads (user := true) (s := clearHazard s) listed other
      refine (readRegIn_congr (s := u) ?sameRegs other).trans loaded
      case sameRegs => rfl
    case kept =>
      have kept : Kept _ [] s u := kept_userLoads s
      exact (kept.of_same (u := { u with ldmUserHazard := true }) rfl rfl (fun m => by cases m <;> rfl) rfl rfl).stepPc
  case stores =>
    obtain ⟨t, answers, stores, slots⟩ := finishStm_stores (user := true) (wback := false) s clear nofun
    refine ⟨t, (exec_stmUser ready written notPc hasSpsr).trans answers, fun k r listed j inside => ?slot, stores.hazard,
      stores.pc, stores.cpsr, stores.kept⟩
    case slot =>
      have stored := slots k r listed j inside
      simp only [stmValue_eq, Bool.false_eq_true, false_and, and_false, if_false, if_true] at stored
      exact stored

end

section
/-! PROOFS. Interrupts of an outer model (60_exceptions R1063, R1064): what an entry saves and masks, which line goes
first, and the return by `SUBS PC, R14, #4`. -/

namespace Sys2Proof.Machine

/-- Every entry saves the return address and the CPSR, and masks as its exception says (R1061, R1062). -/
theorem enterException_enters (e : Exc) (ret : Word) (s : State) :
    Enters e.vector e.mode ret (s.cpsr.f || e.masksFiq) s (enterException e ret s) where
  link := enterException_link ..
  saved := (spsrOf_enterException ..).trans (if_pos rfl)
  cpsr := enterException_cpsr ..
  pc := enterException_pc ..
  regs _ other := enterException_regs_kept _ _ other
  spsr _ other := (spsrOf_enterException ..).trans (if_neg other)
  mem := enterException_mem ..
  fault := enterException_fault ..
  completion := enterException_armCompletion ..

section
variable {s : State}

theorem takeIrq_unmasked (completed : s.armCompletion = true) (unmasked : s.cpsr.i = false) :
    s.takeIrq = enterException .irq (s.pc + 4#32) s :=
  if_pos (by simp [completed, unmasked])

theorem takeFiq_unmasked (completed : s.armCompletion = true) (unmasked : s.cpsr.f = false) :
    s.takeFiq = enterException .fiq (s.pc + 4#32) s :=
  if_pos (by simp [completed, unmasked])

theorem takeIrq_masked (masked : s.cpsr.i = true) : s.takeIrq = s := if_neg (by simp [masked])

theorem takeFiq_masked (masked : s.cpsr.f = true) : s.takeFiq = s := if_neg (by simp [masked])

/-- `SUBS PC, R14, #4` returns to four before R14. -/
theorem dataSpec_subs_pc_link (s : State) :
    ∃ flags, dataSpec (.sub .al true 14 15 (.imm 0#4 4#8)) s = some ⟨15, true, readReg s 14 - 4#32, flags⟩ := by
  have four : (shiftOperand (.imm 0#4 4#8) s).value = 4#32 := by
    change (shiftRotatedImm 0#4 4#8 s.cpsr.flags.c).value = 4#32
    rw [shiftRotatedImm_value]
    decide
  have value : (subSpec 15 true (readReg s 14) 4#32 0).value = readReg s 14 - 4#32 :=
    (congrArg Prod.fst (subWithFlags_eq_subSpec (readReg s 14) 4#32 15 true)).symm.trans (subWithFlags_value ..)
  refine ⟨(subSpec 15 true (readReg s 14) 4#32 0).flags, ?_⟩
  rw [dataSpec, four, ← value]
  rfl

/-- From an IRQ entry the return restores the CPSR and the pc at which the interrupt came (R1064). -/
theorem irq_returns (completed : s.armCompletion = true) (arm : s.cpsr.t = false) (aligned : s.pc.extractLsb' 0 2 = 0#2)
    (hazardClear : s.ldmUserHazard = false) (flagsWritten : ∀ p ∈ flagParts, p ∉ s.unwritten) :
    let t := enterException .irq (s.pc + 4#32) s
    Completes (.sub .al true 14 15 (.imm 0#4 4#8)) t fun u =>
      u.cpsr = s.cpsr ∧ u.pc = s.pc ∧ u.mem = s.mem ∧ u.regs = t.regs := by
  intro t
  have clear : t.ldmUserHazard = false := (enterException_ldmUserHazard ..).trans hazardClear
  have completedThere : t.armCompletion = true := (enterException_armCompletion ..).trans completed
  have written := enterException_gives .irq (s.pc + 4#32) flagsWritten
  have target : readReg t 14 - 4#32 = s.pc := by
    have link : readReg t 14 = s.pc + 4#32 := enterException_link .irq _ s
    rw [link, BitVec.add_sub_cancel]
  obtain ⟨flags, spec⟩ := dataSpec_subs_pc_link t
  rw [target] at spec
  have runs := exec_return_of_dataSpec spec (ready_of_always rfl clear) written completedThere rfl rfl
  rw [clearHazard_enterException] at runs
  refine ⟨_, runs.trans (exceptionReturn_enterException (s := clearHazard s) arm flagsWritten (misaligned_eq_false.2 aligned)),
    rfl, rfl, ?mem, ?regs⟩
  case mem => exact enterException_mem ..
  case regs =>
    rw [give_regs, ← clearHazard_enterException]
    rfl

end

end Sys2Proof.Machine

open Sys2Proof Sys2Proof.Machine

/-- Settles O53: an unmasked line enters its exception, FIQ before IRQ; the return undoes the entry. -/
theorem interruptEntryAndReturn : Obligations.InterruptEntryAndReturn := by
  intro s completed
  refine ⟨fun unmasked => ?irq, takeIrq_masked, fun unmasked => ?fiq, takeFiq_masked, fun irqLine unmasked => ?fiqFirst,
    fun fiqLine masked => ?irqOnly, fun unmasked arm aligned clear flagsWritten => ?returns⟩
  case irq =>
    have enters := enterException_enters .irq (s.pc + 4#32) s
    rw [show Exc.irq.masksFiq = false from rfl, Bool.or_false] at enters
    exact takeIrq_unmasked completed unmasked ▸ enters
  case fiq =>
    have enters := enterException_enters .fiq (s.pc + 4#32) s
    rw [show Exc.fiq.masksFiq = true from rfl, Bool.or_true] at enters
    exact takeFiq_unmasked completed unmasked ▸ enters
  case fiqFirst => simp [State.deliver, unmasked]
  case irqOnly =>
    obtain masked | noFiq := masked
    · simp [State.deliver, masked]
    · simp [State.deliver, noFiq]
  case returns =>
    rw [takeIrq_unmasked completed unmasked]
    exact irq_returns completed arm aligned clear flagsWritten

end
